-- ==== Sys2Proof/Word.lean ====
section
/-! DEFINITION. The machine word: every register of the window is 64 bits wide (00_scope.md R7), and a byte
lane of the bus is 8 bits (20_memory.md R72). -/

namespace Sys2Proof

/-- A 64-bit register value (00_scope.md R7, R8: unsigned, bit 0 least significant). -/
abbrev Word := BitVec 64

/-- One byte lane of the bus (20_memory.md R72). -/
abbrev Byte := BitVec 8

end Sys2Proof
end

