-- ==== Sys2Proof/Config.lean ====
section
/-! DEFINITION. What an implementation of the core fixes (00_scope.md R7) and the one value the spec leaves
unspecified (70_reset_and_hazards.md R250; 93_implementation_defined.md S1). -/

namespace Sys2Proof

/-- SIEVE_STORAGE: the table is manufactured, or built in the INIT phase (00_scope.md R7, 92 D23). -/
inductive SieveStorage where
  | rom
  | init
deriving DecidableEq, Repr

/-- The build parameters of a core (00_scope.md R7, 92 P1, P2). `sieveLen` is LEN; the rule's upper bound
2^64 − 1 is its width, the lower bound 1 is `Config.wellFormed`. -/
structure Config where
  sieveLen : Word
  storage : SieveStorage
deriving DecidableEq, Repr

/-- LEN = 255 is the spec's default (00_scope.md R7, 92 D20). DESIGN CHOICE: ROM storage, because the spec
gives SIEVE_STORAGE no default (notes/assumptions/2.md). -/
def Config.default : Config := ⟨255#64, .rom⟩

/-- A free value: entry `i` of the sieve table between the `n`-th reset and `init_done()` when SIEVE_STORAGE =
INIT, which the spec leaves unspecified (70_reset_and_hazards.md R250; notes/assumptions/8.md). -/
opaque Config.unbuiltEntry : (n : Nat) → (i : Nat) → Word

end Sys2Proof
end

