-- ==== Sys2Proof/Syntax.lean ====
section
/-! DEFINITION. The commands of MRPT-CMD revision 1 (30_encoding.md R92), the registers of the window
(10_state.md, register table), the bus transactions (00_scope.md R11) and the events that can happen to the core
(10_state.md R30, 70_reset_and_hazards.md R250). -/

namespace Sys2Proof

/-- The four operand widths W of the WID field (00_scope.md R3, 30_encoding.md R91). -/
inductive Width where
  | w8
  | w16
  | w32
  | w64
deriving DecidableEq, Repr

/-- One constructor per row of the opcode table (30_encoding.md R92). A command carries its width and nothing
else: it has no immediates (R96), and every width is legal for every opcode (R93). -/
inductive Instr where
  | montSetup (w : Width)
  | montConvert (w : Width)
  | montMul (w : Width)
  | montPow (w : Width)
  | sieveIsPrime (w : Width)
  | sieveLpf (w : Width)
  | factorStart (w : Width)
  | factorNext (w : Width)
  | primeNext (w : Width)
  | mrRound (w : Width)
  | mrTest (w : Width)
deriving DecidableEq, Repr

/-- The sixteen slots of the register window, in offset order (10_state.md, register table; `reserved` is offset
0x78, 20_memory.md R74). -/
inductive Reg where
  | id
  | sieveLen
  | ctrl
  | status
  | cmd
  | opa
  | opb
  | res
  | aux
  | ctxN
  | ctxNinv
  | ctxR
  | ctxR2
  | ctxW
  | fit
  | reserved
deriving DecidableEq, Repr

/-- A host bus transaction: `MemRead(off, size)` or `MemWrite(off, size, v)` at an offset from the window's base
(00_scope.md R11). Sizes and offsets that R71 does not admit can be written down too, so that their bus error can
be stated. -/
inductive Txn where
  | read (size off : Nat)
  | write (size off : Nat) (v : Word)
deriving DecidableEq, Repr

/-- What can happen next: a host transaction, a turn of the core (10_state.md R30) or the reset input
(70_reset_and_hazards.md R250). -/
inductive Event where
  | host (t : Txn)
  | core
  | reset
deriving DecidableEq, Repr

end Sys2Proof
end

