-- ==== Sys2Proof/WellFormed.lean ====
section
/-! DEFINITION. Which terms are well formed: every command (30_encoding.md R93), the admitted bus transactions
(20_memory.md R71) and the legal build parameters (00_scope.md R7). -/

namespace Sys2Proof

/-- 30_encoding.md R93: "Every value of WID is legal for every opcode", and a command has no other field. -/
def Instr.wellFormed : Instr → Bool
  | .montSetup _ | .montConvert _ | .montMul _ | .montPow _ => true
  | .sieveIsPrime _ | .sieveLpf _ | .factorStart _ | .factorNext _ | .primeNext _ => true
  | .mrRound _ | .mrTest _ => true

/-- The access size of a transaction in bytes. -/
def Txn.size : Txn → Nat
  | .read n _ | .write n _ _ => n

/-- The offset of a transaction from the window's base. -/
def Txn.off : Txn → Nat
  | .read _ o | .write _ o _ => o

/-- 20_memory.md R71: 8 bytes, at a multiple of 8, below 0x80. -/
def Txn.admitted (t : Txn) : Bool :=
  t.size == 8 && t.off % 8 == 0 && decide (t.off < 0x80)

/-- An event is admitted unless it is a transaction that R71 does not admit. -/
def Event.admitted : Event → Bool
  | .host t => t.admitted
  | .core | .reset => true

/-- 00_scope.md R7: 1 ≤ LEN ≤ 2^64 − 1. -/
def Config.wellFormed (c : Config) : Bool := c.sieveLen != 0#64

end Sys2Proof
end

