-- ==== Sys2Proof/Decode.lean ====
section
/-! DEFINITION. The command word: decoding it (30_encoding.md R90 to R95), encoding it (R98, R100), the register
offsets (10_state.md, register table) and the byte lanes of a 64-bit value (20_memory.md R72). -/

namespace Sys2Proof

/-! ## Widths -/

/-- 30_encoding.md R91, R93: W = 8 << WID. -/
def Width.bits : Width → Nat
  | .w8 => 8
  | .w16 => 16
  | .w32 => 32
  | .w64 => 64

/-- The WID field of a width (30_encoding.md R91). -/
def Width.wid : Width → BitVec 2
  | .w8 => 0b00#2
  | .w16 => 0b01#2
  | .w32 => 0b10#2
  | .w64 => 0b11#2

/-- The width of a WID field (30_encoding.md R91); every value is legal (R93). -/
def Width.ofWid (f : BitVec 2) : Width :=
  if f = 0b00#2 then .w8 else if f = 0b01#2 then .w16 else if f = 0b10#2 then .w32 else .w64

/-! ## The fields of a command word (R91) -/

/-- OP, bits 7:0. -/
def opField (c : Word) : BitVec 8 := c.extractLsb' 0 8

/-- WID, bits 9:8. -/
def widField (c : Word) : BitVec 2 := c.extractLsb' 8 2

/-- RSV, bits 63:10. -/
def rsvField (c : Word) : BitVec 54 := c.extractLsb' 10 54

/-! ## Decoding -/

/-- Why a command word is illegal, the two conditions of 30_encoding.md R94. -/
inductive IllegalWord where
  /-- c[63:10] ≠ 0 -/
  | reservedBits
  /-- c[7:0] is none of the eleven opcodes of R92 -/
  | unassignedOpcode
deriving DecidableEq, Repr

/-- The opcode map of 30_encoding.md R92. -/
def instrOfOp (op : BitVec 8) (w : Width) : Option Instr :=
  if op = 0x01#8 then some (.montSetup w)
  else if op = 0x02#8 then some (.montConvert w)
  else if op = 0x03#8 then some (.montMul w)
  else if op = 0x04#8 then some (.montPow w)
  else if op = 0x10#8 then some (.sieveIsPrime w)
  else if op = 0x11#8 then some (.sieveLpf w)
  else if op = 0x12#8 then some (.factorStart w)
  else if op = 0x13#8 then some (.factorNext w)
  else if op = 0x14#8 then some (.primeNext w)
  else if op = 0x20#8 then some (.mrRound w)
  else if op = 0x21#8 then some (.mrTest w)
  else none

/-- The decode check of 40_command_cycle.md R114: total on every 64-bit word, rejecting by name (30_encoding.md
R94). -/
def decode (c : Word) : Except IllegalWord Instr :=
  if rsvField c ≠ 0#54 then .error .reservedBits
  else match instrOfOp (opField c) (Width.ofWid (widField c)) with
    | some i => .ok i
    | none => .error .unassignedOpcode

/-! ## Encoding -/

/-- The OP field of a command (30_encoding.md R92). -/
def Instr.opcode : Instr → BitVec 8
  | .montSetup _ => 0x01#8
  | .montConvert _ => 0x02#8
  | .montMul _ => 0x03#8
  | .montPow _ => 0x04#8
  | .sieveIsPrime _ => 0x10#8
  | .sieveLpf _ => 0x11#8
  | .factorStart _ => 0x12#8
  | .factorNext _ => 0x13#8
  | .primeNext _ => 0x14#8
  | .mrRound _ => 0x20#8
  | .mrTest _ => 0x21#8

/-- The width of a command. -/
def Instr.width : Instr → Width
  | .montSetup w | .montConvert w | .montMul w | .montPow w => w
  | .sieveIsPrime w | .sieveLpf w | .factorStart w | .factorNext w | .primeNext w => w
  | .mrRound w | .mrTest w => w

/-- The command word of a command: RSV = 0, then WID, then OP (30_encoding.md R91, R100). -/
def encode (i : Instr) : Word := 0#54 ++ i.width.wid ++ i.opcode

/-! ## Byte lanes (20_memory.md R72) -/

/-- Byte lane `k` carries bits [8k+7:8k]. -/
def lane (v : Word) (k : Nat) : Byte := v.extractLsb' (8 * k) 8

/-- The eight byte lanes of a value, lane 0 first. -/
def lanes (v : Word) : List Byte := (List.range 8).map (lane v)

/-- The value whose lanes, from lane 0 up, are the given bytes (little-endian). -/
def ofLanes : List Byte → Nat
  | [] => 0
  | b :: bs => b.toNat + 256 * ofLanes bs

/-- The command word a host that views a transaction as bytes has written: exactly eight bytes, because only whole
8-byte writes are admitted (20_memory.md R71, R72; 30_encoding.md R90). -/
def wordOfLanes (bs : List Byte) : Option Word :=
  if bs.length = 8 then some (BitVec.ofNat 64 (ofLanes bs)) else none

/-- The instruction the decoder reads from an opcode-table word: its 64 bits (those above `nbits` zero) laid out on
the eight byte lanes of one CMD write, then decoded. A word that does not fit 64 bits is no command word
(30_encoding.md R90). -/
def decodeTableWord (nbits w : Nat) : Option Instr :=
  if w % 2 ^ nbits < 2 ^ 64 then
    match wordOfLanes (lanes (BitVec.ofNat 64 (w % 2 ^ nbits))) with
    | some c =>
      match decode c with
      | .ok i => some i
      | .error _ => none
    | none => none
  else none

/-! ## Register offsets (10_state.md, register table) -/

/-- The offset of a register in the window. -/
def Reg.offset : Reg → Nat
  | .id => 0x00
  | .sieveLen => 0x08
  | .ctrl => 0x10
  | .status => 0x18
  | .cmd => 0x20
  | .opa => 0x28
  | .opb => 0x30
  | .res => 0x38
  | .aux => 0x40
  | .ctxN => 0x48
  | .ctxNinv => 0x50
  | .ctxR => 0x58
  | .ctxR2 => 0x60
  | .ctxW => 0x68
  | .fit => 0x70
  | .reserved => 0x78

/-- Register decode (20_memory.md R73): total over the sixteen aligned offsets, nothing elsewhere. -/
def Reg.ofOffset (off : Nat) : Option Reg :=
  if off = 0x00 then some .id
  else if off = 0x08 then some .sieveLen
  else if off = 0x10 then some .ctrl
  else if off = 0x18 then some .status
  else if off = 0x20 then some .cmd
  else if off = 0x28 then some .opa
  else if off = 0x30 then some .opb
  else if off = 0x38 then some .res
  else if off = 0x40 then some .aux
  else if off = 0x48 then some .ctxN
  else if off = 0x50 then some .ctxNinv
  else if off = 0x58 then some .ctxR
  else if off = 0x60 then some .ctxR2
  else if off = 0x68 then some .ctxW
  else if off = 0x70 then some .fit
  else if off = 0x78 then some .reserved
  else none

end Sys2Proof
end

