-- ==== Sys2Proof/Machine/Arith.lean ====
section
/-! DEFINITION. The arithmetic notation of 00_scope.md R9, over natural numbers. -/

namespace Sys2Proof.Machine

/-- wrap_W(v), which is also lo_W(v): v mod 2^W (00_scope.md R9). -/
def wrap (w v : Nat) : Nat := v % 2 ^ w

/-- hi_W(v) = v div 2^W (00_scope.md R9). -/
def hi (w v : Nat) : Nat := v / 2 ^ w

/-- wrap_W(x − y), with the difference taken modulo 2^W (00_scope.md R9). -/
def wrapSub (w x y : Nat) : Nat := (x + (2 ^ w - y % 2 ^ w)) % 2 ^ w

/-- ctz(v) for v > 0: halve while the value is even, at most `fuel` times. -/
def ctzLoop : (fuel : Nat) → (v : Nat) → Nat
  | 0, _ => 0
  | fuel + 1, v => if v % 2 = 1 then 0 else ctzLoop fuel (v / 2) + 1

/-- ctz(v), the number of trailing zero bits of v > 0 (00_scope.md R9). `log2 v` halvings are enough. -/
def ctz (v : Nat) : Nat := ctzLoop v.log2 v

/-- zext_64(v): a value held in a 64-bit register (00_scope.md R9, 30_encoding.md R97). -/
def zext64 (v : Nat) : Word := BitVec.ofNat 64 v

end Sys2Proof.Machine
end

