-- ==== Sys2Proof/Machine/Table.lean ====
section
/-! DEFINITION. The sieve table (42_sieve.md R160 to R162), the core's only memory: cells (index, entry) in one
canonical form, indices strictly rising and no cell equal to what an unlisted index reads as
(notes/assumptions/9.md). -/

namespace Sys2Proof.Machine

/-- The table's listed cells. -/
abbrev SieveTable := List (Nat × Word)

/-- SENT as read out (42_sieve.md R160): what an index reads as that holds no factor. -/
def sentinel : Word := 0xFFFF_FFFF_FFFF_FFFF#64

/-- SIEVE[i]: the listed entry, else the sentinel, "not yet assigned" (42_sieve.md R160, R161). -/
def SieveTable.get : SieveTable → Nat → Word
  | [], _ => sentinel
  | (j, v) :: t, i => if i = j then v else SieveTable.get t i

/-- Insert or replace one cell, keeping indices rising. -/
def SieveTable.insert : SieveTable → Nat → Word → SieveTable
  | [], i, v => [(i, v)]
  | (j, x) :: t, i, v =>
    if i < j then (i, v) :: (j, x) :: t
    else if i = j then (i, v) :: t
    else (j, x) :: SieveTable.insert t i v

/-- Remove the cell of one index, if it is listed. -/
def SieveTable.erase : SieveTable → Nat → SieveTable
  | [], _ => []
  | (j, x) :: t, i => if i = j then t else (j, x) :: SieveTable.erase t i

/-- A[i] <- v, keeping the canonical form: writing the sentinel unlists the index. -/
def SieveTable.set (t : SieveTable) (i : Nat) (v : Word) : SieveTable :=
  if v = sentinel then t.erase i else t.insert i v

/-- The canonical form from index `low` on. -/
def SieveTable.wfFrom : (low : Nat) → SieveTable → Bool
  | _, [] => true
  | low, (i, v) :: t => decide (low ≤ i) && v != sentinel && SieveTable.wfFrom (i + 1) t

/-- The canonical form: indices strictly rising, no cell equal to the sentinel. -/
def SieveTable.wf (t : SieveTable) : Bool := t.wfFrom 0

/-- Try d, d+1, … as a divisor of n, at most `fuel` of them; n itself when none divides. -/
def lpfFrom : (fuel : Nat) → (d n : Nat) → Nat
  | 0, _, n => n
  | fuel + 1, d, n => if n % d = 0 then d else lpfFrom fuel (d + 1) n

/-- lpf(n), the least prime factor of n ≥ 2 (00_scope.md R15): the least divisor from 2 up. -/
def lpf (n : Nat) : Nat := lpfFrom (n - 2) 2 n

/-- The contents of 42_sieve.md R160 for a bound `len`: the sentinel at 0 and 1, lpf(i) from 2 up. -/
def romTable (len : Nat) : SieveTable :=
  (List.range' 2 (len - 2)).map fun i => (i, zext64 (lpf i))

/-- The inner loop of 42_sieve.md R161 for one i: over the primes found so far, in ascending order, until
p > A[i] or p·i ≥ LEN. -/
def markMultiples (len i : Nat) : (primes : List Nat) → SieveTable → SieveTable
  | [], a => a
  | p :: ps, a =>
    if (a.get i).toNat < p ∨ len ≤ p * i then a
    else markMultiples len i ps (a.set (p * i) (zext64 p))

/-- The outer loop of 42_sieve.md R161, `n` iterations from i on, with the primes found so far. -/
def buildLoop (len : Nat) : (n : Nat) → (i : Nat) → (primes : List Nat) → SieveTable → SieveTable
  | 0, _, _, a => a
  | n + 1, i, primes, a =>
    if a.get i = sentinel then
      buildLoop len n (i + 1) (primes ++ [i]) (markMultiples len i (primes ++ [i]) (a.set i (zext64 i)))
    else
      buildLoop len n (i + 1) primes (markMultiples len i primes a)

/-- `build()` of 42_sieve.md R161: every entry the sentinel, no primes, then i = 2 .. LEN − 1. -/
def buildTable (len : Nat) : SieveTable := buildLoop len (len - 2) 2 [] []

/-- The unspecified table after the `n`-th reset with SIEVE_STORAGE = INIT: LEN free entries
(70_reset_and_hazards.md R250; notes/assumptions/8.md). -/
def unbuiltTable (n len : Nat) : SieveTable :=
  ((List.range len).map fun i => (i, Config.unbuiltEntry n i)).filter fun c => c.2 != sentinel

/-- The table right after a reset (70_reset_and_hazards.md R250, last state row). -/
def resetTable (cfg : Config) (n : Nat) : SieveTable :=
  match cfg.storage with
  | .rom => romTable cfg.sieveLen.toNat
  | .init => unbuiltTable n cfg.sieveLen.toNat

end Sys2Proof.Machine
end

