-- ==== Sys2Proof/Machine/State.lean ====
section
/-! DEFINITION. The core's state (10_state.md), why a step can stop, the error codes a command can complete with
(60_exceptions.md R220), and the state after reset (70_reset_and_hazards.md R250). -/

namespace Sys2Proof.Machine

/-- The core phase (10_state.md R50). -/
inductive Phase where
  | init
  | idle
  | exec
deriving DecidableEq, Repr

/-- What the bus answered to the host's last transaction: nothing yet, the value a read returned (00_scope.md R11),
or that a write was accepted (20_memory.md R76, R77). The model's own (notes/assumptions/5.md). -/
inductive BusReply where
  | none
  | data (v : Word)
  | ack
deriving DecidableEq, Repr

/-- The causes a command can fail with (60_exceptions.md R220). -/
inductive ErrCode where
  | illegalCmd
  | noContext
  | widthMismatch
  | operandRange
  | evenModulus
  | sieveRange
deriving DecidableEq, Repr

/-- Faults of the machine. The spec names none: "No behaviour of the MRPT core is stuck" (93, end of part 2). -/
inductive Fault where
  /-- Raised by FACTOR_NEXT when FIT ≥ 2 is not an index of the sieve table. 42_sieve.md R169 says this never
  happens; the model stops instead of inventing an entry. Safe: a true claim could only become unprovable
  (notes/assumptions/10.md). -/
  | sieveIndex (i : Nat)
deriving DecidableEq, Repr

/-- Refusals of a step. -/
inductive Refusal where
  /-- Raised by exec's arms for an instruction that has no meaning yet; no arm does. Safe. -/
  | notModelled (mnemonic : String)
  /-- Raised by a host transaction that is not admitted: the core signals a bus error and changes no state, and a
  model refuses the host step (20_memory.md R71, 60_exceptions.md R225). Safe (notes/assumptions/6.md). -/
  | busError (t : Txn)
deriving DecidableEq, Repr

/-- The machine. The configuration never changes; `inbox`, `reply` and `resets` are the model's own
(notes/assumptions/3.md, 5.md, 7.md); every other field is the spec's, under the rule named beside it. -/
structure State where
  /-- build parameters (00_scope.md R7; notes/assumptions/1.md) -/
  cfg : Config
  /-- R50 -/
  phase : Phase
  /-- CTRL.IE, R33 -/
  ie : Bool
  /-- STATUS.DONE, R36 -/
  done : Bool
  /-- STATUS.OVERRUN, R37 -/
  overrun : Bool
  /-- STATUS.CTX_VALID, R38 -/
  ctxValid : Bool
  /-- STATUS.ERR, R40 -/
  err : BitVec 4
  /-- R41 -/
  cmd : Word
  /-- R42 -/
  opa : Word
  /-- R43 -/
  opb : Word
  /-- R44 -/
  res : Word
  /-- R45 -/
  aux : Word
  /-- R46 -/
  ctxN : Word
  /-- R46 -/
  ctxNinv : Word
  /-- R46 -/
  ctxR : Word
  /-- R46 -/
  ctxR2 : Word
  /-- R47, bits 6:0 -/
  ctxW : BitVec 7
  /-- R49 -/
  fit : Word
  /-- LAT.CMD, R48 -/
  latCmd : Word
  /-- LAT.A, R48 -/
  latA : Word
  /-- LAT.B, R48 -/
  latB : Word
  /-- R51 -/
  sieve : SieveTable
  /-- the events still to happen, first one first -/
  inbox : List Event
  /-- the bus's answer to the last host transaction -/
  reply : BusReply
  /-- how many resets have happened since power-up -/
  resets : Nat
deriving DecidableEq, Repr

/-- The state a reset leaves (70_reset_and_hazards.md R250), for a core with build parameters `cfg`, with `n` resets
before it and the events `events` still to come. -/
def State.afterReset (cfg : Config) (n : Nat) (events : List Event) : State where
  cfg := cfg
  phase := .init
  ie := false
  done := false
  overrun := false
  ctxValid := false
  err := 0#4
  cmd := 0#64
  opa := 0#64
  opb := 0#64
  res := 0#64
  aux := 0#64
  ctxN := 0#64
  ctxNinv := 0#64
  ctxR := 0#64
  ctxR2 := 0#64
  ctxW := 0#7
  fit := 0#64
  latCmd := 0#64
  latA := 0#64
  latB := 0#64
  sieve := resetTable cfg n
  inbox := events
  reply := .none
  resets := n

/-- The machine right after its first reset, with the default build parameters and nothing scheduled
(70_reset_and_hazards.md R250; notes/assumptions/1.md, 2.md, 4.md). -/
def State.reset : State := State.afterReset Config.default 0 []

/-- LEN as a number (00_scope.md R7). -/
def State.len (s : State) : Nat := s.cfg.sieveLen.toNat

end Sys2Proof.Machine
end

