-- ==== Sys2Proof/Machine/Flags.lean ====
section
/-! DEFINITION. The status bits: what STATUS reads as (10_state.md R34 to R40, 20_memory.md R75), what a write to it
clears (R34, R76), the error codes (60_exceptions.md R220) and the interrupt output (10_state.md R52). -/

namespace Sys2Proof.Machine

/-- The code of a cause in STATUS.ERR (60_exceptions.md R220). -/
def ErrCode.code : ErrCode → BitVec 4
  | .illegalCmd => 1#4
  | .noContext => 2#4
  | .widthMismatch => 3#4
  | .operandRange => 4#4
  | .evenModulus => 5#4
  | .sieveRange => 6#4

/-- STATUS.BUSY = (phase ≠ IDLE) (10_state.md R35, R50). -/
def State.busy (s : State) : Bool := s.phase != .idle

/-- STATUS.FIT_ACTIVE, computed from FIT (10_state.md R39). -/
def State.fitActive (s : State) : Bool := decide (2 ≤ s.fit.toNat)

/-- The interrupt output: IRQ = STATUS.DONE & CTRL.IE (10_state.md R52). -/
def State.irq (s : State) : Bool := s.done && s.ie

/-- The STATUS word: BUSY | DONE<<1 | OVERRUN<<2 | CTX_VALID<<3 | FIT_ACTIVE<<4 | ERR<<8 (20_memory.md R75); bits 7:5
and 63:12 read 0 (10_state.md R34). -/
def State.statusWord (s : State) : Word :=
  0#52 ++ s.err ++ 0#3 ++ BitVec.ofBool s.fitActive ++ BitVec.ofBool s.ctxValid ++ BitVec.ofBool s.overrun
    ++ BitVec.ofBool s.done ++ BitVec.ofBool s.busy

/-- The CTRL word: IE in bit 0, the rest reads 0 (10_state.md R33). -/
def State.ctrlWord (s : State) : Word := 0#63 ++ BitVec.ofBool s.ie

/-- A write to STATUS: 1 in bit 1 clears DONE, 1 in bit 2 clears OVERRUN, every other bit is ignored
(10_state.md R34, 20_memory.md R76). -/
def State.writeStatus (v : Word) (s : State) : State :=
  { s with done := s.done && !v.getLsbD 1, overrun := s.overrun && !v.getLsbD 2 }

/-- A write to CTRL: bit 0 is IE, the rest is ignored (10_state.md R33, 20_memory.md R76). -/
def State.writeCtrl (v : Word) (s : State) : State := { s with ie := v.getLsbD 0 }

end Sys2Proof.Machine
end

