-- ==== Sys2Proof/Machine/Operands.lean ====
section
/-! DEFINITION. Operand assembly and the checks common to all commands (30_encoding.md R96, 40_command_cycle.md R115,
R116), and the context a command computes with (41_montgomery.md R130). -/

namespace Sys2Proof.Machine

/-- A Montgomery context (N, NINV, Rm, R2, W) as natural numbers (41_montgomery.md R130); `w` is the width in bits. -/
structure Ctx where
  n : Nat
  ninv : Nat
  r : Nat
  r2 : Nat
  w : Nat
deriving DecidableEq, Repr

/-- What a completed command writes besides RES, AUX and STATUS (40_command_cycle.md R117, `upd`). -/
inductive Update where
  | nothing
  | context (c : Ctx)
  | fit (v : Word)
deriving DecidableEq, Repr

/-- The answer of `execute()` (40_command_cycle.md R120): Ok(res, aux, upd) or Error(code). -/
inductive Result where
  | ok (res aux : Word) (upd : Update)
  | error (e : ErrCode)
deriving DecidableEq, Repr

/-- A row of the operand table (30_encoding.md R96): whether the command needs a context, and which latches are
range-checked. -/
structure OperandRow where
  needsContext : Bool
  checksA : Bool
  checksB : Bool
deriving DecidableEq, Repr

/-- The operand table of 30_encoding.md R96. -/
def operandRow : Instr → OperandRow
  | .montSetup _ => ⟨false, true, false⟩
  | .montConvert _ => ⟨true, true, false⟩
  | .montMul _ => ⟨true, true, true⟩
  | .montPow _ => ⟨true, true, true⟩
  | .sieveIsPrime _ => ⟨false, true, false⟩
  | .sieveLpf _ => ⟨false, true, false⟩
  | .factorStart _ => ⟨false, true, false⟩
  | .factorNext _ => ⟨false, false, false⟩
  | .primeNext _ => ⟨false, true, false⟩
  | .mrRound _ => ⟨true, true, false⟩
  | .mrTest _ => ⟨false, true, false⟩

/-- The first check of R115 and R116 that fails, in the order of 40_command_cycle.md R120: NO_CONTEXT,
WIDTH_MISMATCH, then OPERAND_RANGE for LAT.A before LAT.B. (ILLEGAL_CMD comes before them, in the decoder.) -/
def State.failedCheck (i : Instr) (s : State) : Option ErrCode :=
  let row := operandRow i
  let w := i.width.bits
  if row.needsContext && !s.ctxValid then some .noContext
  else if row.needsContext && decide (w ≠ s.ctxW.toNat) then some .widthMismatch
  else if row.checksA && decide (2 ^ w ≤ s.latA.toNat) then some .operandRange
  else if row.checksB && decide (2 ^ w ≤ s.latB.toNat) then some .operandRange
  else none

/-- Run a command's own rule only when no common check fails (40_command_cycle.md R120). -/
def State.checked (i : Instr) (s : State) (rule : Result) : Result :=
  match s.failedCheck i with
  | some e => .error e
  | none => rule

/-- The context registers, read at width `w` (41_montgomery.md R138 to R140, 43_miller_rabin.md R195). -/
def State.context (s : State) (w : Width) : Ctx where
  n := s.ctxN.toNat
  ninv := s.ctxNinv.toNat
  r := s.ctxR.toNat
  r2 := s.ctxR2.toNat
  w := w.bits

/-- SIEVE[i] for an index of the table, nothing outside it (42_sieve.md R163). -/
def State.sieveEntry (s : State) (i : Nat) : Option Word :=
  if i < s.len then some (s.sieve.get i) else none

end Sys2Proof.Machine
end

