-- ==== Sys2Proof/Machine/Ops.lean ====
section
/-! DEFINITION. The named operations over the state: register reads and writes (20_memory.md R73 to R77), acceptance and
rejection of a command (40_command_cycle.md R110, R111), completion with a result or with an error (R117,
60_exceptions.md R222, R229), the end of INIT (70_reset_and_hazards.md R251) and reset (R250). -/

namespace Sys2Proof.Machine

/-! ## The life of a command -/

/-- `accept(v)` (40_command_cycle.md R110): latch the word and the operands, clear DONE, start executing. -/
def State.accept (v : Word) (s : State) : State :=
  { s with latCmd := v, latA := s.opa, latB := s.opb, cmd := v, done := false, phase := .exec }

/-- A CMD write while busy is discarded and sets OVERRUN (40_command_cycle.md R111). -/
def State.reject (s : State) : State := { s with overrun := true }

/-- Apply `upd` of a successful completion (40_command_cycle.md R117, 41_montgomery.md R137, 42_sieve.md R166). -/
def State.applyUpdate (u : Update) (s : State) : State :=
  match u with
  | .nothing => s
  | .context c =>
    { s with
      ctxN := zext64 c.n
      ctxNinv := zext64 c.ninv
      ctxR := zext64 c.r
      ctxR2 := zext64 c.r2
      ctxW := BitVec.ofNat 7 c.w
      ctxValid := true }
  | .fit v => { s with fit := v }

/-- Completion with Ok(res, aux, upd) (40_command_cycle.md R117). -/
def State.completeOk (res aux : Word) (u : Update) (s : State) : State :=
  { s.applyUpdate u with res := res, aux := aux, err := 0#4, done := true, phase := .idle }

/-- Completion with Error(code), the core's only "trap entry" (60_exceptions.md R222, R229): ERR, DONE and the phase
change and nothing else. Nothing is saved, so there is no return operation (R230): the next accepted command runs
normally. -/
def State.completeError (e : ErrCode) (s : State) : State :=
  { s with err := e.code, done := true, phase := .idle }

/-- `complete()` for the answer of `execute()` (40_command_cycle.md R117). -/
def State.complete (out : Result) (s : State) : State :=
  match out with
  | .ok res aux u => s.completeOk res aux u
  | .error e => s.completeError e

/-! ## The core's initialisation and reset -/

/-- `init_done()` (70_reset_and_hazards.md R251). -/
def State.initDone (s : State) : State :=
  match s.cfg.storage with
  | .rom => { s with phase := .idle }
  | .init => { s with sieve := buildTable s.len, phase := .idle }

/-- The reset input (70_reset_and_hazards.md R250, R253), whatever the state was. The build parameters and the events
still to come are no state of the core and stay (notes/assumptions/7.md). -/
def State.resetAgain (s : State) : State := State.afterReset s.cfg (s.resets + 1) s.inbox

/-! ## Register access -/

/-- The ID constant: "MRPT" and the edition 7 (10_state.md R31). -/
def idWord : Word := 0x0000_0007_4D52_5054#64

/-- What a read of a register returns (20_memory.md R75; R74 for the reserved slot). Reads have no side effect. -/
def State.readReg (r : Reg) (s : State) : Word :=
  match r with
  | .id => idWord
  | .sieveLen => s.cfg.sieveLen
  | .ctrl => s.ctrlWord
  | .status => s.statusWord
  | .cmd => s.cmd
  | .opa => s.opa
  | .opb => s.opb
  | .res => s.res
  | .aux => s.aux
  | .ctxN => s.ctxN
  | .ctxNinv => s.ctxNinv
  | .ctxR => s.ctxR
  | .ctxR2 => s.ctxR2
  | .ctxW => 0#57 ++ s.ctxW
  | .fit => s.fit
  | .reserved => 0#64

/-- A write to CMD: acceptance when IDLE, rejection when busy (20_memory.md R76, 40_command_cycle.md R110, R111). -/
def State.writeCmd (v : Word) (s : State) : State :=
  match s.phase with
  | .idle => s.accept v
  | .init | .exec => s.reject

/-- What a write to a register does (20_memory.md R76); a write to a read-only register or to the reserved slot is
accepted and ignored (R74, R77). -/
def State.writeReg (r : Reg) (v : Word) (s : State) : State :=
  match r with
  | .ctrl => s.writeCtrl v
  | .status => s.writeStatus v
  | .cmd => s.writeCmd v
  | .opa => { s with opa := v }
  | .opb => { s with opb := v }
  | .id | .sieveLen | .res | .aux => s
  | .ctxN | .ctxNinv | .ctxR | .ctxR2 | .ctxW | .fit => s
  | .reserved => s

/-- The register an admitted transaction selects (20_memory.md R71, R73). -/
def selectedReg (t : Txn) : Option Reg := if t.admitted then Reg.ofOffset t.off else none

/-- One host step (20_memory.md R70, R76): a read answers with the register's value, a write is acknowledged, and a
transaction that is not admitted is refused and changes no state (R71, 60_exceptions.md R225). -/
def State.hostStep (t : Txn) (s : State) : Host.Outcome State Fault Refusal :=
  match selectedReg t with
  | none => .refused (.busError t)
  | some r =>
    match t with
    | .read _ _ => .next { s with reply := .data (s.readReg r) }
    | .write _ _ v => .next { s.writeReg r v with reply := .ack }

end Sys2Proof.Machine
end

