-- ==== Sys2Proof/Machine/Montgomery.lean ====
section
/-! DEFINITION. The Montgomery engine (41_montgomery.md): its four functions, then its four commands. -/

namespace Sys2Proof.Machine

/-! ## Functions -/

/-- One Newton step for the inverse of `n` modulo 2^w (41_montgomery.md R131). -/
def newtonStep (w n inv : Nat) : Nat := wrap w (inv * wrapSub w 2 (wrap w (n * inv)))

/-- `k` Newton steps. -/
def newtonLoop (w n : Nat) : (k : Nat) → (inv : Nat) → Nat
  | 0, inv => inv
  | k + 1, inv => newtonLoop w n k (newtonStep w n inv)

/-- NINV: the inverse of an odd `n` modulo 2^w. DEDUCED: computed by the log2(W) Newton steps of 41_montgomery.md R131
from inv = n; only the value, R130's, is normative (notes/assumptions/11.md). -/
def montInverse (w n : Nat) : Nat := newtonLoop w n w.log2 n

/-- ctx(N, W) (41_montgomery.md R130). -/
def mkCtx (n w : Nat) : Ctx where
  n := n
  ninv := montInverse w n
  r := 2 ^ w % n
  r2 := (2 ^ w % n) * (2 ^ w % n) % n
  w := w

/-- mont_mul(a, b) (41_montgomery.md R132), the reduction that subtracts m·N and corrects by one addition of N. -/
def montMul (c : Ctx) (a b : Nat) : Nat :=
  let t := a * b
  let m := wrap c.w (wrap c.w t * c.ninv)
  let u := m * c.n
  let d := wrapSub c.w (hi c.w t) (hi c.w u)
  if hi c.w t < hi c.w u then wrap c.w (d + c.n) else d

/-- mont_convert(a) = mont_mul(a, R2) (41_montgomery.md R134). -/
def montConvert (c : Ctx) (a : Nat) : Nat := montMul c a c.r2

/-- The square-and-multiply loop of 41_montgomery.md R135, at most `fuel` iterations. -/
def montPowLoop (c : Ctx) : (fuel : Nat) → (acc b k : Nat) → Nat
  | 0, acc, _, _ => acc
  | fuel + 1, acc, b, k =>
    if k = 0 then acc
    else montPowLoop c fuel (if k % 2 = 1 then montMul c acc b else acc) (montMul c b b) (k / 2)

/-- mont_pow(x, e) (41_montgomery.md R135): `log2 e + 1` iterations empty every exponent. -/
def montPow (c : Ctx) (x e : Nat) : Nat := montPowLoop c (e.log2 + 1) c.r x e

/-! ## Commands -/

/-- MONT_SETUP's own rule (41_montgomery.md R137). -/
def montSetupRule (w : Width) (s : State) : Result :=
  if s.latA.toNat % 2 = 0 then .error .evenModulus
  else .ok 0#64 0#64 (.context (mkCtx s.latA.toNat w.bits))

/-- MONT_SETUP (41_montgomery.md R137). -/
def execMontSetup (w : Width) (s : State) : Host.Outcome State Fault Refusal :=
  .next (s.complete (s.checked (.montSetup w) (montSetupRule w s)))

/-- MONT_CONVERT (41_montgomery.md R138). -/
def execMontConvert (w : Width) (s : State) : Host.Outcome State Fault Refusal :=
  .next (s.complete (s.checked (.montConvert w)
    (.ok (zext64 (montConvert (s.context w) s.latA.toNat)) 0#64 .nothing)))

/-- MONT_MUL (41_montgomery.md R139). -/
def execMontMul (w : Width) (s : State) : Host.Outcome State Fault Refusal :=
  .next (s.complete (s.checked (.montMul w)
    (.ok (zext64 (montMul (s.context w) s.latA.toNat s.latB.toNat)) 0#64 .nothing)))

/-- MONT_POW (41_montgomery.md R140). -/
def execMontPow (w : Width) (s : State) : Host.Outcome State Fault Refusal :=
  .next (s.complete (s.checked (.montPow w)
    (.ok (zext64 (montPow (s.context w) s.latA.toNat s.latB.toNat)) 0#64 .nothing)))

end Sys2Proof.Machine
end

