-- ==== Sys2Proof/Machine/Sieve.lean ====
section
/-! DEFINITION. The five sieve commands (42_sieve.md R164 to R168). -/

namespace Sys2Proof.Machine

/-- A flag in bit 0 of a result register (42_sieve.md R164, R166 to R168). -/
def boolWord (b : Bool) : Word := if b then 1#64 else 0#64

/-- SIEVE[v] = v, the table's primality test (42_sieve.md R160). -/
def State.sievePrime (s : State) (v : Nat) : Bool := decide (s.sieve.get v = zext64 v)

/-- SIEVE_ISPRIME's own rule (42_sieve.md R164). -/
def sieveIsPrimeRule (s : State) : Result :=
  if s.latA.toNat < s.len then .ok (boolWord (s.sievePrime s.latA.toNat)) 0#64 .nothing
  else .error .sieveRange

/-- SIEVE_ISPRIME (42_sieve.md R164). -/
def execSieveIsPrime (w : Width) (s : State) : Host.Outcome State Fault Refusal :=
  .next (s.complete (s.checked (.sieveIsPrime w) (sieveIsPrimeRule s)))

/-- SIEVE_LPF's own rule (42_sieve.md R165). -/
def sieveLpfRule (s : State) : Result :=
  match s.sieveEntry s.latA.toNat with
  | some q => .ok q 0#64 .nothing
  | none => .error .sieveRange

/-- SIEVE_LPF (42_sieve.md R165). -/
def execSieveLpf (w : Width) (s : State) : Host.Outcome State Fault Refusal :=
  .next (s.complete (s.checked (.sieveLpf w) (sieveLpfRule s)))

/-- FACTOR_START's own rule (42_sieve.md R166): AUX bit 0 = EMPTY. -/
def factorStartRule (s : State) : Result :=
  if s.latA.toNat < s.len then
    .ok 0#64 (boolWord (decide (s.latA.toNat < 2))) (.fit s.latA)
  else .error .sieveRange

/-- FACTOR_START (42_sieve.md R166). -/
def execFactorStart (w : Width) (s : State) : Host.Outcome State Fault Refusal :=
  .next (s.complete (s.checked (.factorStart w) (factorStartRule s)))

/-- FACTOR_NEXT (42_sieve.md R167). The index is in range by R169; where FIT breaks that, the model faults
(notes/assumptions/10.md). No common check applies (R167), but they are asked for as for every command. -/
def execFactorNext (w : Width) (s : State) : Host.Outcome State Fault Refusal :=
  if s.fit.toNat ≤ 1 then .next (s.complete (s.checked (.factorNext w) (.ok 0#64 1#64 .nothing)))
  else
    match s.sieveEntry s.fit.toNat with
    | some q => .next (s.complete (s.checked (.factorNext w) (.ok q 0#64 (.fit (s.fit / q)))))
    | none => .fault (.sieveIndex s.fit.toNat)

/-- The least i in [v, v + n) with SIEVE[i] = i (42_sieve.md R168). -/
def State.scanPrime (s : State) : (n : Nat) → (v : Nat) → Option Nat
  | 0, _ => none
  | n + 1, v => if s.sievePrime v then some v else s.scanPrime n (v + 1)

/-- PRIME_NEXT's own rule (42_sieve.md R168): AUX bit 0 = END. -/
def primeNextRule (s : State) : Result :=
  match s.scanPrime (s.len - s.latA.toNat) s.latA.toNat with
  | some q => .ok (zext64 q) 0#64 .nothing
  | none => .ok 0#64 1#64 .nothing

/-- PRIME_NEXT (42_sieve.md R168). -/
def execPrimeNext (w : Width) (s : State) : Host.Outcome State Fault Refusal :=
  .next (s.complete (s.checked (.primeNext w) (primeNextRule s)))

end Sys2Proof.Machine
end

