-- ==== Sys2Proof/Machine/MillerRabin.lean ====
section
/-! DEFINITION. The deterministic Miller-Rabin decision (43_miller_rabin.md): constants, one round, the whole test, and
the two commands. -/

namespace Sys2Proof.Machine

/-! ## Constants -/

/-- WIT(W) (43_miller_rabin.md R190). -/
def witnesses : Width → List Nat
  | .w8 | .w16 | .w32 => [2, 7, 61]
  | .w64 => [2, 325, 9375, 28178, 450775, 9780504, 1795265022]

/-- CASCADE_BOUND (00_scope.md R7, 43_miller_rabin.md R193). -/
def cascadeBound : Nat := 1795265022

/-! ## One round -/

/-- The verdict of a round (43_miller_rabin.md R192). -/
inductive Verdict where
  | composite
  | accept
  | skipped
deriving DecidableEq, Repr

/-- The triple (verdict, s, k) of 43_miller_rabin.md R192. -/
structure RoundResult where
  verdict : Verdict
  s : Nat
  k : Nat
deriving DecidableEq, Repr

/-- The squaring loop of R192 from step `j` on, `n` squarings left: accept when the square is p − Rm. -/
def squareLoop (c : Ctx) (s : Nat) : (n : Nat) → (j x : Nat) → RoundResult
  | 0, _, _ => ⟨.composite, s, 0xFF⟩
  | n + 1, j, x =>
    let y := montMul c x x
    if y = c.n - c.r then ⟨.accept, s, j⟩ else squareLoop c s n (j + 1) y

/-- mr_round(ctx, a) (43_miller_rabin.md R191, R192). -/
def mrRound (c : Ctx) (a : Nat) : RoundResult :=
  if a % c.n = 0 then ⟨.skipped, 0, 0xFF⟩
  else
    let s := ctz (c.n - 1)
    let t := (c.n - 1) >>> s
    let x := montPow c (montConvert c (a % c.n)) t
    if x = c.r ∨ x = c.n - c.r then ⟨.accept, s, 0⟩
    else squareLoop c s (s - 1) 1 x

/-! ## The whole test -/

/-- PATH of 43_miller_rabin.md R199. -/
inductive Path where
  | trivial
  | sieve
  | witness
deriving DecidableEq, Repr

/-- The answer of mr_test and the fields of its AUX word (43_miller_rabin.md R193, R199). -/
structure TestResult where
  prime : Bool
  path : Path
  casc : Bool
  widx : Nat
  skip : Nat
  s : Nat
deriving DecidableEq, Repr

/-- A result of steps 1 and 3: every AUX field but PATH at its default (43_miller_rabin.md R199). -/
def TestResult.plain (prime : Bool) (path : Path) : TestResult := ⟨prime, path, false, 0xF, 0, 0⟩

/-- Step 1, the trivial filter: an answer for p = 1 and for even p (43_miller_rabin.md R193). -/
def trivialFilter (p : Nat) : Option TestResult :=
  if p = 1 then some (.plain false .trivial)
  else if p % 2 = 0 then some (.plain (decide (p = 2)) .trivial)
  else none

/-- Steps 4 and 5, the witness loop from index `i` on (43_miller_rabin.md R193). -/
def witnessLoop (c : Ctx) (s : Nat) : (wit : List Nat) → (i skip : Nat) → TestResult
  | [], _, skip => ⟨true, .witness, false, 0xF, skip, s⟩
  | a :: rest, i, skip =>
    match (mrRound c a).verdict with
    | .composite => ⟨false, .witness, false, i, skip, s⟩
    | .skipped => witnessLoop c s rest (i + 1) (skip + 1)
    | .accept => witnessLoop c s rest (i + 1) skip

/-- Steps 3 to 5 for an odd p ≥ 3 at one width, with the private context of R193. -/
def sieveOrWitness (s : State) (p : Nat) (w : Width) : TestResult :=
  if p < s.len then .plain (s.sievePrime p) .sieve
  else witnessLoop (mkCtx p w.bits) (ctz (p - 1)) (witnesses w) 0 0

/-- mr_test at a width that does not cascade: steps 1, 3, 4, 5 (43_miller_rabin.md R193, R194). -/
def mrTestFlat (s : State) (p : Nat) (w : Width) : TestResult :=
  match trivialFilter p with
  | some r => r
  | none => sieveOrWitness s p w

/-- mr_test(p, W) (43_miller_rabin.md R193): the cascade of step 2 re-runs the check once, at 32 bits (R194). -/
def mrTest (s : State) (p : Nat) (w : Width) : TestResult :=
  match trivialFilter p with
  | some r => r
  | none =>
    if w = .w64 ∧ p < cascadeBound then { mrTestFlat s (p % 2 ^ 32) .w32 with casc := true }
    else sieveOrWitness s p w

/-- PATH as a number (43_miller_rabin.md R199). -/
def Path.code : Path → BitVec 2
  | .trivial => 0#2
  | .sieve => 1#2
  | .witness => 2#2

/-- The AUX word of MR_TEST, field by field from bit 63 down (43_miller_rabin.md R199). -/
def TestResult.auxWord (r : TestResult) : Word :=
  0#40 ++ BitVec.ofNat 8 r.s ++ BitVec.ofNat 8 r.skip ++ BitVec.ofNat 4 r.widx ++ 0#1 ++ BitVec.ofBool r.casc
    ++ r.path.code

/-! ## Commands -/

/-- RES of MR_ROUND (43_miller_rabin.md R195). -/
def Verdict.code : Verdict → Word
  | .composite => 0#64
  | .accept => 1#64
  | .skipped => 2#64

/-- AUX of MR_ROUND: s in bits 7:0, k in bits 15:8 (43_miller_rabin.md R195). -/
def RoundResult.auxWord (r : RoundResult) : Word := 0#48 ++ BitVec.ofNat 8 r.k ++ BitVec.ofNat 8 r.s

/-- MR_ROUND's own rule (43_miller_rabin.md R195). -/
def mrRoundRule (w : Width) (s : State) : Result :=
  let r := mrRound (s.context w) s.latA.toNat
  .ok r.verdict.code r.auxWord .nothing

/-- MR_ROUND (43_miller_rabin.md R195). -/
def execMrRound (w : Width) (s : State) : Host.Outcome State Fault Refusal :=
  .next (s.complete (s.checked (.mrRound w) (mrRoundRule w s)))

/-- MR_TEST's own rule (43_miller_rabin.md R196). -/
def mrTestRule (w : Width) (s : State) : Result :=
  let r := mrTest s s.latA.toNat w
  .ok (boolWord r.prime) r.auxWord .nothing

/-- MR_TEST (43_miller_rabin.md R196). -/
def execMrTest (w : Width) (s : State) : Host.Outcome State Fault Refusal :=
  .next (s.complete (s.checked (.mrTest w) (mrTestRule w s)))

end Sys2Proof.Machine
end

