-- ==== Sys2Proof/Machine/Dispatch.lean ====
section
/-! DEFINITION. The case of `execute()` (40_command_cycle.md R120): one arm per command. -/

namespace Sys2Proof.Machine

/-- The completion of a command whose word decodes to `i` (40_command_cycle.md R117, R120). -/
def exec (i : Instr) (s : State) : Host.Outcome State Fault Refusal :=
  match i with
  | .montSetup w => Sys2Proof.Machine.execMontSetup w s
  | .montConvert w => Sys2Proof.Machine.execMontConvert w s
  | .montMul w => Sys2Proof.Machine.execMontMul w s
  | .montPow w => Sys2Proof.Machine.execMontPow w s
  | .sieveIsPrime w => Sys2Proof.Machine.execSieveIsPrime w s
  | .sieveLpf w => Sys2Proof.Machine.execSieveLpf w s
  | .factorStart w => Sys2Proof.Machine.execFactorStart w s
  | .factorNext w => Sys2Proof.Machine.execFactorNext w s
  | .primeNext w => Sys2Proof.Machine.execPrimeNext w s
  | .mrRound w => Sys2Proof.Machine.execMrRound w s
  | .mrTest w => Sys2Proof.Machine.execMrTest w s

end Sys2Proof.Machine
end

