-- ==== Sys2Proof/Machine/Step.lean ====
section
/-! DEFINITION. One step of the machine: the next event of the inbox, or a turn of the core when none is left
(10_state.md R30; notes/assumptions/3.md, 4.md). -/

namespace Sys2Proof.Machine

/-- `execute()` and `complete()` on the latched word (40_command_cycle.md R117, R120): a word that does not decode
completes with ILLEGAL_CMD (R114). -/
def State.runLatched (s : State) : Host.Outcome State Fault Refusal :=
  match decode s.latCmd with
  | .ok i => exec i s
  | .error _ => .next (s.completeError .illegalCmd)

/-- A turn of the core: `init_done()` when INIT, `complete()` when EXEC, nothing when IDLE (70_reset_and_hazards.md
R251, 40_command_cycle.md R113, 60_exceptions.md R236). -/
def State.coreStep (s : State) : Host.Outcome State Fault Refusal :=
  match s.phase with
  | .init => .next s.initDone
  | .idle => .next s
  | .exec => s.runLatched

/-- What one event does (20_memory.md R80, 60_exceptions.md R228: one at a time). -/
def State.onEvent (e : Event) (s : State) : Host.Outcome State Fault Refusal :=
  match e with
  | .host t => s.hostStep t
  | .core => s.coreStep
  | .reset => .next s.resetAgain

/-- One step: the first event of the inbox happens and leaves it; with an empty inbox the core takes its turn, which is
how `complete()` and `init_done()` are weakly fair (40_command_cycle.md R119, 70_reset_and_hazards.md R251). -/
def step (s : State) : Host.Outcome State Fault Refusal :=
  match s.inbox with
  | [] => s.coreStep
  | e :: rest => State.onEvent e { s with inbox := rest }

/-- `s` with the command word `w` accepted and the core to move next, so that the very next step decodes and runs it
(notes/assumptions/12.md): INIT is left as `init_done()` leaves it, then the word is accepted as a CMD write accepts
it (40_command_cycle.md R110). -/
def State.withFetchWord (s : State) (nbits w : Nat) : State :=
  let ready := match s.phase with
    | .init => s.initDone
    | .idle => s
    | .exec => s
  { ready.accept (BitVec.ofNat 64 (w % 2 ^ nbits)) with inbox := .core :: s.inbox }

end Sys2Proof.Machine
end

