-- ==== Sys2Proof/Machine/HostProgram.lean ====
section
/-! DEFINITION. The host's side: the line syntax of host programs as events (30_encoding.md R98), the pseudo-commands
(R99), and the host loops of 42_sieve.md R170 and R171. None of this is core behaviour; labels, branches and `let`
are the host's own (R98; notes/assumptions/18.md). -/

namespace Sys2Proof.Machine

/-- A line of a host program that touches the bus (30_encoding.md R98). `wait polls` is the wait loop in a schedule
where `polls` reads of STATUS come before the completion (notes/assumptions/18.md). -/
inductive HostLine where
  | wr (r : Reg) (v : Word)
  | rd (r : Reg)
  | issue (i : Instr)
  | wait (polls : Nat)
  | clr
deriving DecidableEq, Repr

/-- `wr REG, v` (30_encoding.md R98). -/
def busWrite (r : Reg) (v : Word) : Event := .host (.write 8 r.offset v)

/-- `rd REG` (30_encoding.md R98). -/
def busRead (r : Reg) : Event := .host (.read 8 r.offset)

/-- The events of one line (30_encoding.md R98). -/
def HostLine.events : HostLine → List Event
  | .wr r v => [busWrite r v]
  | .rd r => [busRead r]
  | .issue i => [busWrite .cmd (encode i)]
  | .wait polls => List.replicate polls (busRead .status) ++ [.core, busRead .status]
  | .clr => [busWrite .status 0x6#64]

/-- The events of a straight-line host program. -/
def hostEvents (p : List HostLine) : List Event := p.flatMap HostLine.events

/-- Let exactly the events `es` happen to `s`, in order, through `step`. -/
def State.play (s : State) (es : List Event) : Host.Outcome State Fault Refusal :=
  Sys2Proof.core.run es.length { s with inbox := es }

/-! ## Pseudo-commands (30_encoding.md R99) -/

/-- Put both operands, issue a command, wait for it, and read RES. -/
def callWith (i : Instr) (a b : Word) (polls : Nat) : List HostLine :=
  [.wr .opa a, .wr .opb b, .issue i, .wait polls, .rd .res]

/-- Put the first operand, issue a command, wait for it, and read RES. -/
def callWithA (i : Instr) (a : Word) (polls : Nat) : List HostLine :=
  [.wr .opa a, .issue i, .wait polls, .rd .res]

/-- MONT_FROM.W x (30_encoding.md R99). -/
def montFrom (w : Width) (x : Word) (polls : Nat) : List HostLine := callWith (.montMul w) x 1#64 polls

/-- MODMUL.W and MODPOW.W, up to the first `rd RES`: `a` into Montgomery form (30_encoding.md R99). -/
def modEnter (w : Width) (a : Word) (polls : Nat) : List HostLine := callWithA (.montConvert w) a polls

/-- MODMUL.W from the first `rd RES` on; `r` is the value that read returned (30_encoding.md R99). -/
def modMulFinish (w : Width) (r b : Word) (polls : Nat) : List HostLine := callWith (.montMul w) r b polls

/-- MODPOW.W from the first `rd RES` to the second; `r` is the value the first read returned (30_encoding.md R99). -/
def modPowMiddle (w : Width) (r e : Word) (polls : Nat) : List HostLine := callWith (.montPow w) r e polls

/-- MONT_ONE (30_encoding.md R99): the host reads CTX_R. -/
def montOne : List HostLine := [.rd .ctxR]

/-- MONT_NEG_ONE's host computation CTX_N − CTX_R (30_encoding.md R99). -/
def montNegOne (ctxN ctxR : Word) : Word := ctxN - ctxR

/-- ISPRIME.W p (30_encoding.md R99). -/
def isPrimeProgram (w : Width) (p : Word) (polls : Nat) : List HostLine := callWithA (.mrTest w) p polls

/-! ## Host loops over the sieve -/

/-- The RES values of at most `n` FACTOR_NEXT commands, up to the first END (42_sieve.md R170). -/
def factorsRead (w : Width) : (n : Nat) → State → List Nat
  | 0, _ => []
  | n + 1, s =>
    match exec (.factorNext w) s with
    | .next t => if t.aux = 1#64 then [] else t.res.toNat :: factorsRead w n t
    | .fault _ | .refused _ => []

/-- The primes output by at most `n` PRIME_NEXT commands from v on, each started one above the last prime
(42_sieve.md R171). -/
def primesRead (w : Width) : (n : Nat) → (v : Word) → State → List Nat
  | 0, _, _ => []
  | n + 1, v, s =>
    match exec (.primeNext w) { s with latA := v } with
    | .next t => if t.aux = 1#64 then [] else t.res.toNat :: primesRead w n (t.res + 1#64) t
    | .fault _ | .refused _ => []

end Sys2Proof.Machine
end

