-- ==== Sys2Proof/Machine/Work.lean ====
section
/-! DEFINITION. The work the rules count: `mont_mul` evaluations and table reads per command (70_reset_and_hazards.md
R261, 43_miller_rabin.md R201), and the writes of `build()` (42_sieve.md R161, R162). No rule's effect depends on it
(R261: "They are informational"), so `step` does not use it. The counts are those of a twin of each function, in which
`mulCounted` is the only evaluation of `mont_mul` and `readCounted` the only read of the table; that the twin of `exec` has
`exec`'s value is a clause of the statement about the counts (notes/assumptions/14.md). -/

namespace Sys2Proof.Machine

/-! ## Counting -/

/-- What 70_reset_and_hazards.md R261 counts. -/
structure Work where
  muls : Nat
  reads : Nat
deriving DecidableEq, Repr

/-- The work of two computations, one after the other. -/
def Work.add (x y : Work) : Work := ⟨x.muls + y.muls, x.reads + y.reads⟩

/-- A value with the work that computing it took. -/
structure Counted (α : Type) where
  value : α
  work : Work

/-- A value that takes no counted work. -/
def Counted.free {α : Type} (v : α) : Counted α := ⟨v, ⟨0, 0⟩⟩

/-- A computation, then one that uses its value. -/
def Counted.andThen {α β : Type} (x : Counted α) (f : α → Counted β) : Counted β :=
  ⟨(f x.value).value, x.work.add (f x.value).work⟩

/-- A computation whose value is used by one that takes no counted work. -/
def Counted.map {α β : Type} (f : α → β) (x : Counted α) : Counted β := ⟨f x.value, x.work⟩

/-- One evaluation of mont_mul (41_montgomery.md R132). -/
def mulCounted (c : Ctx) (a b : Nat) : Counted Nat := ⟨montMul c a b, ⟨1, 0⟩⟩

/-- One read of the table (42_sieve.md R160). -/
def readCounted (s : State) (i : Nat) : Counted Word := ⟨s.sieve.get i, ⟨0, 1⟩⟩

/-! ## Twins of the functions -/

/-- montConvert (41_montgomery.md R134). -/
def convertCounted (c : Ctx) (a : Nat) : Counted Nat := mulCounted c a c.r2

/-- montPowLoop (41_montgomery.md R135). -/
def powLoopCounted (c : Ctx) : (fuel : Nat) → (acc b k : Nat) → Counted Nat
  | 0, acc, _, _ => .free acc
  | fuel + 1, acc, b, k =>
    if k = 0 then .free acc
    else
      (if k % 2 = 1 then mulCounted c acc b else .free acc).andThen fun acc' =>
        (mulCounted c b b).andThen fun b' => powLoopCounted c fuel acc' b' (k / 2)

/-- montPow (41_montgomery.md R135). -/
def powCounted (c : Ctx) (x e : Nat) : Counted Nat := powLoopCounted c (e.log2 + 1) c.r x e

/-- sievePrime (42_sieve.md R160). -/
def sievePrimeCounted (s : State) (v : Nat) : Counted Bool := (readCounted s v).map fun q => decide (q = zext64 v)

/-- scanPrime (42_sieve.md R168). -/
def scanCounted (s : State) : (n : Nat) → (v : Nat) → Counted (Option Nat)
  | 0, _ => .free none
  | n + 1, v =>
    (sievePrimeCounted s v).andThen fun prime => if prime then .free (some v) else scanCounted s n (v + 1)

/-- squareLoop (43_miller_rabin.md R192). -/
def squareLoopCounted (c : Ctx) (s : Nat) : (n : Nat) → (j x : Nat) → Counted RoundResult
  | 0, _, _ => .free ⟨.composite, s, 0xFF⟩
  | n + 1, j, x =>
    (mulCounted c x x).andThen fun y =>
      if y = c.n - c.r then .free ⟨.accept, s, j⟩ else squareLoopCounted c s n (j + 1) y

/-- mrRound (43_miller_rabin.md R192). -/
def roundCounted (c : Ctx) (a : Nat) : Counted RoundResult :=
  if a % c.n = 0 then .free ⟨.skipped, 0, 0xFF⟩
  else
    let s := ctz (c.n - 1)
    (convertCounted c (a % c.n)).andThen fun a' =>
      (powCounted c a' ((c.n - 1) >>> s)).andThen fun x =>
        if x = c.r ∨ x = c.n - c.r then .free ⟨.accept, s, 0⟩ else squareLoopCounted c s (s - 1) 1 x

/-- witnessLoop (43_miller_rabin.md R193 step 4). -/
def witnessLoopCounted (c : Ctx) (s : Nat) : (wit : List Nat) → (i skip : Nat) → Counted TestResult
  | [], _, skip => .free ⟨true, .witness, false, 0xF, skip, s⟩
  | a :: rest, i, skip =>
    (roundCounted c a).andThen fun r =>
      match r.verdict with
      | .composite => .free ⟨false, .witness, false, i, skip, s⟩
      | .skipped => witnessLoopCounted c s rest (i + 1) (skip + 1)
      | .accept => witnessLoopCounted c s rest (i + 1) skip

/-- sieveOrWitness (43_miller_rabin.md R193 steps 3 to 5). -/
def sieveOrWitnessCounted (s : State) (p : Nat) (w : Width) : Counted TestResult :=
  if p < s.len then (sievePrimeCounted s p).map fun prime => .plain prime .sieve
  else witnessLoopCounted (mkCtx p w.bits) (ctz (p - 1)) (witnesses w) 0 0

/-- mrTestFlat (43_miller_rabin.md R193, R194). -/
def testFlatCounted (s : State) (p : Nat) (w : Width) : Counted TestResult :=
  match trivialFilter p with
  | some r => .free r
  | none => sieveOrWitnessCounted s p w

/-- mrTest (43_miller_rabin.md R193). -/
def testCounted (s : State) (p : Nat) (w : Width) : Counted TestResult :=
  match trivialFilter p with
  | some r => .free r
  | none =>
    if w = .w64 ∧ p < cascadeBound then
      (testFlatCounted s (p % 2 ^ 32) .w32).map fun r => { r with casc := true }
    else sieveOrWitnessCounted s p w

/-! ## Twins of the commands -/

/-- The completion of a checked command: a failing common check does no counted work (40_command_cycle.md R120). -/
def completeCounted (i : Instr) (s : State) (rule : Counted Result) : Counted (Host.Outcome State Fault Refusal) :=
  match s.failedCheck i with
  | some e => .free (.next (s.complete (.error e)))
  | none => rule.map fun r => .next (s.complete r)

/-- `exec` with the work it does (70_reset_and_hazards.md R261). -/
def execCounted (i : Instr) (s : State) : Counted (Host.Outcome State Fault Refusal) :=
  match i with
  | .montSetup w => completeCounted i s (.free (montSetupRule w s))
  | .montConvert w =>
    completeCounted i s ((convertCounted (s.context w) s.latA.toNat).map fun d => .ok (zext64 d) 0#64 .nothing)
  | .montMul w =>
    completeCounted i s
      ((mulCounted (s.context w) s.latA.toNat s.latB.toNat).map fun d => .ok (zext64 d) 0#64 .nothing)
  | .montPow w =>
    completeCounted i s
      ((powCounted (s.context w) s.latA.toNat s.latB.toNat).map fun d => .ok (zext64 d) 0#64 .nothing)
  | .sieveIsPrime _ =>
    completeCounted i s
      (if s.latA.toNat < s.len then
        (sievePrimeCounted s s.latA.toNat).map fun prime => .ok (boolWord prime) 0#64 .nothing
      else .free (.error .sieveRange))
  | .sieveLpf _ =>
    completeCounted i s
      (if s.latA.toNat < s.len then (readCounted s s.latA.toNat).map fun q => .ok q 0#64 .nothing
      else .free (.error .sieveRange))
  | .factorStart _ => completeCounted i s (.free (factorStartRule s))
  | .factorNext _ =>
    if s.fit.toNat ≤ 1 then completeCounted i s (.free (.ok 0#64 1#64 .nothing))
    else if s.fit.toNat < s.len then
      completeCounted i s ((readCounted s s.fit.toNat).map fun q => .ok q 0#64 (.fit (s.fit / q)))
    else .free (.fault (.sieveIndex s.fit.toNat))
  | .primeNext _ =>
    completeCounted i s
      ((scanCounted s (s.len - s.latA.toNat) s.latA.toNat).map fun
        | some q => .ok (zext64 q) 0#64 .nothing
        | none => .ok 0#64 1#64 .nothing)
  | .mrRound w =>
    completeCounted i s
      ((roundCounted (s.context w) s.latA.toNat).map fun r => .ok r.verdict.code r.auxWord .nothing)
  | .mrTest w =>
    completeCounted i s
      ((testCounted s s.latA.toNat w).map fun r => .ok (boolWord r.prime) r.auxWord .nothing)

/-! ## The writes of `build()` -/

/-- The writes A[p·i] <- p of the inner loop of 42_sieve.md R161 for one i, as pairs (p, i). -/
def markPairs (len i : Nat) (primes : List Nat) (a : SieveTable) : List (Nat × Nat) :=
  (primes.takeWhile fun p => decide (p ≤ (a.get i).toNat ∧ p * i < len)).map fun p => (p, i)

/-- The writes of `n` iterations of the outer loop of 42_sieve.md R161 from i on, in order; the write A[i] <- i of a new
prime is the pair (i, 1). -/
def buildWritesLoop (len : Nat) : (n : Nat) → (i : Nat) → (primes : List Nat) → SieveTable → List (Nat × Nat)
  | 0, _, _, _ => []
  | n + 1, i, primes, a =>
    if a.get i = sentinel then
      let a' := a.set i (zext64 i)
      let ps := primes ++ [i]
      (i, 1) :: (markPairs len i ps a' ++ buildWritesLoop len n (i + 1) ps (markMultiples len i ps a'))
    else
      markPairs len i primes a ++ buildWritesLoop len n (i + 1) primes (markMultiples len i primes a)

/-- All writes of `build()` after the initial ones, in order, as pairs (p, i) for A[p·i] <- p (42_sieve.md R161). -/
def buildWrites (len : Nat) : List (Nat × Nat) := buildWritesLoop len (len - 2) 2 [] []

/-- Make the writes of a list of pairs (p, i), in order: A[p·i] <- p (42_sieve.md R161). -/
def replayWrites (writes : List (Nat × Nat)) (a : SieveTable) : SieveTable :=
  writes.foldl (fun t x => t.set (x.1 * x.2) (zext64 x.1)) a

/-- The composite writes of `build()`, in order (42_sieve.md R162). -/
def buildPairs (len : Nat) : List (Nat × Nat) := (buildWrites len).filter fun x => decide (x.2 ≠ 1)

end Sys2Proof.Machine
end

