-- ==== Sys2Proof/Safety.lean ====
section
/-! DEFINITION. The terms claims use: the invariants of a run (10_state.md R53, 42_sieve.md R160, R169), a scheduled
event being admitted, and the two shapes of a completed command (40_command_cycle.md R117). -/

namespace Sys2Proof.Machine

/-! ## Shapes of a completed command -/

/-- `s` after a command that succeeded with RES and AUX and no other update (40_command_cycle.md R117). -/
def State.withResult (s : State) (res aux : Word) : State :=
  { s with res := res, aux := aux, err := 0#4, done := true, phase := .idle }

/-- `s` after a command that failed with an error code (60_exceptions.md R222). -/
def State.withError (s : State) (code : BitVec 4) : State :=
  { s with err := code, done := true, phase := .idle }

/-! ## Invariants -/

/-- The context invariant (10_state.md R53). -/
def State.ContextOk (s : State) : Prop :=
  (s.ctxValid = true →
    ∃ w : Width, s.ctxW.toNat = w.bits ∧ s.ctxN.toNat % 2 = 1 ∧ s.ctxN.toNat < 2 ^ w.bits ∧
      s.ctxN.toNat * s.ctxNinv.toNat % 2 ^ w.bits = 1 ∧ s.ctxNinv.toNat < 2 ^ w.bits ∧
      s.ctxR.toNat = 2 ^ w.bits % s.ctxN.toNat ∧
      s.ctxR2.toNat = s.ctxR.toNat * s.ctxR.toNat % s.ctxN.toNat) ∧
  (s.ctxValid = false →
    s.ctxN = 0#64 ∧ s.ctxNinv = 0#64 ∧ s.ctxR = 0#64 ∧ s.ctxR2 = 0#64 ∧ s.ctxW = 0#7)

/-- The invariant of FIT (42_sieve.md R169). -/
def State.FitOk (s : State) : Prop := s.fit.toNat ≤ 1 ∨ s.fit.toNat < s.len

/-- What the sieve table holds (42_sieve.md R160): the sentinel at 0 and 1, the least prime factor from 2 up. -/
def SieveTable.Correct (t : SieveTable) (len : Nat) : Prop :=
  ∀ i, i < len → t.get i = if i < 2 then 0xFFFF_FFFF_FFFF_FFFF#64 else BitVec.ofNat 64 i.minFac

/-- The table is correct from manufacture (ROM) or from the end of INIT on (70_reset_and_hazards.md R250, R251). -/
def State.SieveOk (s : State) : Prop :=
  s.cfg.storage = .rom ∨ s.phase ≠ .init → s.sieve.Correct s.len

/-- The table keeps its canonical form and covers no index outside [0, LEN) (42_sieve.md R163). -/
def State.TableOk (s : State) : Prop := s.sieve.wf = true ∧ ∀ c ∈ s.sieve, c.1 < s.len

/-- ERR holds a code that is produced: 0 to 6 (60_exceptions.md R220, 93 S6). -/
def State.ErrOk (s : State) : Prop := s.err.toNat ≤ 6

/-- CMD and LAT.CMD are the last accepted word (10_state.md R41, R48), and DONE means not busy (R36). -/
def State.CycleOk (s : State) : Prop := s.cmd = s.latCmd ∧ (s.done = true → s.phase = .idle)

/-- The machine's invariant. -/
structure State.Inv (s : State) : Prop where
  config : s.cfg.wellFormed = true
  context : s.ContextOk
  fit : s.FitOk
  sieve : s.SieveOk
  table : s.TableOk
  err : s.ErrOk
  cycle : s.CycleOk

/-- A context of width `w` is set up (40_command_cycle.md R115). -/
def State.HasContext (s : State) (w : Width) : Prop := s.ctxValid = true ∧ s.ctxW.toNat = w.bits

/-- No scheduled transaction is a bus error (20_memory.md R71). -/
def State.InboxAdmitted (s : State) : Prop := ∀ e ∈ s.inbox, e.admitted = true

/-! ## Number theory -/

/-- p passes the strong (Miller-Rabin) test to base a: with p − 1 = 2^m·t, t odd, a^t is 1 or some a^(t·2^j), j < m, is
−1 modulo p (43_miller_rabin.md R191, R192). -/
def StrongProbablePrime (p a : Nat) : Prop :=
  ∃ m t, p - 1 = 2 ^ m * t ∧ t % 2 = 1 ∧ (a ^ t % p = 1 ∨ ∃ j, j < m ∧ a ^ (t * 2 ^ j) % p = p - 1)

/-! ## The witness sets -/

/-- The witness set of one width is sufficient: every odd composite of that width has in WIT(W) a base that is not ≡ 0
modulo it and that it fails (43_miller_rabin.md R190, R197). -/
def WitnessSetSuffices (w : Width) : Prop :=
  ∀ p : Nat, 3 ≤ p → p % 2 = 1 → p < 2 ^ w.bits → ¬ p.Prime →
    ∃ a ∈ witnesses w, a % p ≠ 0 ∧ ¬ StrongProbablePrime p a

/-- The NAMED ASSUMPTION of 43_miller_rabin.md R197 and 93_implementation_defined.md G2, "The witness sets are
sufficient". UNVERIFIED: the source asserts it without proof; no definition of the machine rests on it, and a statement
that does takes its clause for the width in question as a hypothesis (notes/assumptions/15.md). -/
def WitnessSetsAreSufficient : Prop := ∀ w : Width, WitnessSetSuffices w

/-- The law of 43_miller_rabin.md R197 at one width: MR_TEST.W completes with RES = 1 iff isPrime(p). -/
def MrTestIsExactAt (w : Width) : Prop :=
  ∀ s : State, s.Inv → s.phase = .exec → s.latA.toNat < 2 ^ w.bits →
    ∃ aux, exec (.mrTest w) s = .next (s.withResult (if s.latA.toNat.Prime then 1#64 else 0#64) aux)

/-- The law of 43_miller_rabin.md R197 as the named assumption it asks for: RES = 1 iff isPrime(p), at every width. UNVERIFIED
for the reason WitnessSetsAreSufficient is, and given by it with the statement MrTestRejectsCompositesThatHaveAWitness
(notes/assumptions/15.md). -/
def MrTestIsExact : Prop := ∀ w : Width, MrTestIsExactAt w

end Sys2Proof.Machine
end

