-- ==== Sys2Proof/Certificates/Slice0/Obligations.lean ====
section
/-! DEFINITION. The statements for the provers. A completed command is stated as one equation for the next state, so
that every statement of a result is also a statement of completion and of the frame: whatever the equation does not
name, every register, every flag and every entry of the table, is as before. -/

open Sys2Proof Sys2Proof.Machine

/-! ## Encoding -/

/-- Decoding and encoding are each other's inverse: a word decodes to a command exactly when it is that command's word
(30_encoding.md R91 to R94). -/
def Obligations.DecodeExactlyInvertsEncode : Prop :=
  ∀ (c : Word) (i : Instr), i.wellFormed = true ∧ decode c = .ok i ↔ c = encode i

/-- One canonical word of each row of the opcode table, from the table of 30_encoding.md R100. -/
def Obligations.CanonicalWordsDecode : Prop :=
  decode 0x001#64 = .ok (.montSetup .w8) ∧ decode 0x102#64 = .ok (.montConvert .w16) ∧
  decode 0x203#64 = .ok (.montMul .w32) ∧ decode 0x304#64 = .ok (.montPow .w64) ∧
  decode 0x110#64 = .ok (.sieveIsPrime .w16) ∧ decode 0x211#64 = .ok (.sieveLpf .w32) ∧
  decode 0x012#64 = .ok (.factorStart .w8) ∧ decode 0x313#64 = .ok (.factorNext .w64) ∧
  decode 0x214#64 = .ok (.primeNext .w32) ∧ decode 0x120#64 = .ok (.mrRound .w16) ∧
  decode 0x321#64 = .ok (.mrTest .w64)

/-- Byte lane k carries bits [8k+7:8k], eight lanes make up the value again, and a command's word laid out on the lanes of
one CMD write decodes to the command (20_memory.md R72, 30_encoding.md R90). -/
def Obligations.ByteLanesCarryTheCommandWord : Prop :=
  (∀ v : Word, wordOfLanes (lanes v) = some v ∧
    ∀ k j, k < 8 → j < 8 → (lane v k).getLsbD j = v.getLsbD (8 * k + j)) ∧
  ∀ i : Instr, i.wellFormed = true → decodeTableWord 64 (encode i).toNat = some i

/-- The decode check of 40_command_cycle.md R114: in EXEC, with the core to move, a step on a latched word with bits 63:10
not zero, or with no opcode of 30_encoding.md R92 in bits 7:0, completes with code 1 (60_exceptions.md R220) and changes
nothing else. That the scheduled events are a list, and that the core moves when it is empty, are the model's choices
(notes/assumptions/3.md, 4.md). -/
def Obligations.IllegalWordsCompleteWithCodeOne : Prop :=
  ∀ (s : State) (rest : List Event), s.phase = .exec →
    (s.inbox = .core :: rest ∨ s.inbox = [] ∧ rest = []) →
    (s.latCmd.toNat / 2 ^ 10 ≠ 0 ∨
      s.latCmd.toNat % 256 ∉ [0x01, 0x02, 0x03, 0x04, 0x10, 0x11, 0x12, 0x13, 0x14, 0x20, 0x21]) →
    step s = .next (State.withError { s with inbox := rest } 1#4)

/-- The register decode is total over the sixteen aligned offsets of the window (20_memory.md R73). -/
def Obligations.RegisterDecodeIsTotalOnTheWindow : Prop :=
  (∀ off : Nat, (off % 8 = 0 ∧ off < 0x80) ↔ ∃ r, Reg.ofOffset off = some r) ∧
  ∀ (off : Nat) (r : Reg), Reg.ofOffset off = some r ↔ off = r.offset

/-! ## Steps and bus transactions -/

/-- A step runs the decoded instruction: in EXEC, with the core to move, the step is `exec` of the instruction the
latched word decodes to, on the state without the event (40_command_cycle.md R113, R117, R120). That the scheduled events are
a list, and that the core moves when it is empty, are the model's choices (notes/assumptions/3.md, 4.md). -/
def Obligations.StepRunsTheDecodedInstruction : Prop :=
  ∀ (s : State) (i : Instr) (rest : List Event), i.wellFormed = true → s.phase = .exec → decode s.latCmd = .ok i →
    (s.inbox = .core :: rest ∨ s.inbox = [] ∧ rest = []) → step s = exec i { s with inbox := rest }

/-- An admitted read answers with the register's value and has no side effect (20_memory.md R75). -/
def Obligations.ReadsAnswerTheRegisterAndChangeNothing : Prop :=
  ∀ (s : State) (off : Nat) (rest : List Event), s.inbox = .host (.read 8 off) :: rest →
    off % 8 = 0 → off < 0x80 →
    ∃ v : Word, step s = .next { s with inbox := rest, reply := .data v } ∧
      (off = 0x00 → v = 0x74D525054#64) ∧
      (off = 0x08 → v = s.cfg.sieveLen) ∧
      (off = 0x10 → v.toNat = if s.ie then 1 else 0) ∧
      (off = 0x18 → v.toNat = (if s.phase = .idle then 0 else 1) + (if s.done then 2 else 0)
        + (if s.overrun then 4 else 0) + (if s.ctxValid then 8 else 0) + (if 2 ≤ s.fit.toNat then 16 else 0)
        + 256 * s.err.toNat) ∧
      (off = 0x20 → v = s.cmd) ∧ (off = 0x28 → v = s.opa) ∧ (off = 0x30 → v = s.opb) ∧
      (off = 0x38 → v = s.res) ∧ (off = 0x40 → v = s.aux) ∧ (off = 0x48 → v = s.ctxN) ∧
      (off = 0x50 → v = s.ctxNinv) ∧ (off = 0x58 → v = s.ctxR) ∧ (off = 0x60 → v = s.ctxR2) ∧
      (off = 0x68 → v.toNat = s.ctxW.toNat) ∧ (off = 0x70 → v = s.fit) ∧ (off = 0x78 → v = 0#64)

/-- Writes to CTRL, STATUS, OPA and OPB (20_memory.md R76, 10_state.md R33, R34). -/
def Obligations.RegisterWritesTakeEffectAtOnce : Prop :=
  ∀ (s : State) (off : Nat) (v : Word) (rest : List Event), s.inbox = .host (.write 8 off v) :: rest →
    (off = 0x10 → step s = .next { s with inbox := rest, reply := .ack, ie := v.getLsbD 0 }) ∧
    (off = 0x18 → step s = .next { s with
      inbox := rest, reply := .ack, done := s.done && !v.getLsbD 1, overrun := s.overrun && !v.getLsbD 2 }) ∧
    (off = 0x28 → step s = .next { s with inbox := rest, reply := .ack, opa := v }) ∧
    (off = 0x30 → step s = .next { s with inbox := rest, reply := .ack, opb := v })

/-- A CMD write while IDLE accepts the word, whatever it is (40_command_cycle.md R110). -/
def Obligations.CmdWriteWhileIdleIsAccepted : Prop :=
  ∀ (s : State) (v : Word) (rest : List Event), s.inbox = .host (.write 8 0x20 v) :: rest → s.phase = .idle →
    step s = .next { s with
      inbox := rest, reply := .ack, latCmd := v, latA := s.opa, latB := s.opb, cmd := v, done := false,
      phase := .exec }

/-- A CMD write while busy sets OVERRUN and changes nothing else (40_command_cycle.md R111). -/
def Obligations.CmdWriteWhileBusySetsOverrun : Prop :=
  ∀ (s : State) (v : Word) (rest : List Event), s.inbox = .host (.write 8 0x20 v) :: rest → s.phase ≠ .idle →
    step s = .next { s with inbox := rest, reply := .ack, overrun := true }

/-- A write to a read-only register is accepted and ignored (20_memory.md R77). -/
def Obligations.ReadOnlyRegistersIgnoreWrites : Prop :=
  ∀ (s : State) (off : Nat) (v : Word) (rest : List Event), s.inbox = .host (.write 8 off v) :: rest →
    off ∈ [0x00, 0x08, 0x38, 0x40, 0x48, 0x50, 0x58, 0x60, 0x68, 0x70] →
    step s = .next { s with inbox := rest, reply := .ack }

/-- The reserved offset reads 0 and ignores writes; the reserved bits of CTRL, STATUS and CTX_W read 0 and ignore
writes (20_memory.md R74). -/
def Obligations.ReservedOffsetAndBitsReadZeroAndIgnoreWrites : Prop :=
  ∀ s : State,
    s.hostStep (.read 8 0x78) = .next { s with reply := .data 0#64 } ∧
    (∀ v, s.hostStep (.write 8 0x78 v) = .next { s with reply := .ack }) ∧
    (∀ k, 1 ≤ k → (s.readReg .ctrl).getLsbD k = false) ∧
    (∀ k, (5 ≤ k ∧ k ≤ 7 ∨ 12 ≤ k) → (s.readReg .status).getLsbD k = false) ∧
    (∀ k, 7 ≤ k → (s.readReg .ctxW).getLsbD k = false) ∧
    (∀ v v' : Word, v.getLsbD 0 = v'.getLsbD 0 → s.writeReg .ctrl v = s.writeReg .ctrl v') ∧
    (∀ v v' : Word, v.getLsbD 1 = v'.getLsbD 1 → v.getLsbD 2 = v'.getLsbD 2 →
      s.writeReg .status v = s.writeReg .status v') ∧
    (∀ v : Word, s.writeReg .ctxW v = s)

/-- A transaction is refused, as a bus error, exactly when its size is not 8, its offset is no multiple of 8, or its
offset is 0x80 or more (20_memory.md R71; that a refusal is how a model shows it: 60_exceptions.md R225). -/
def Obligations.ExactlyUnadmittedTransactionsAreRefused : Prop :=
  ∀ (s : State) (t : Txn) (rest : List Event), s.inbox = .host t :: rest →
    ((step s = .refused (.busError t)) ↔ ¬ (t.size = 8 ∧ t.off % 8 = 0 ∧ t.off < 0x80))

/-- The core does nothing while IDLE (60_exceptions.md R236): with the core to move, the step only drops that event. That such
a turn is a step that changes nothing, that the scheduled events are a list, and that the core moves when it is empty, are
the model's choices (notes/assumptions/3.md, 4.md). -/
def Obligations.IdleCoreTurnChangesNothing : Prop :=
  ∀ (s : State) (rest : List Event), s.phase = .idle → (s.inbox = .core :: rest ∨ s.inbox = [] ∧ rest = []) →
    step s = .next { s with inbox := rest }

/-- `init_done()`, the core's step in INIT, makes the core IDLE with a correct table, and changes nothing else; it does not
set DONE (70_reset_and_hazards.md R251, 42_sieve.md R160 to R162). That the scheduled events are a list, and that the core
moves when it is empty, are the model's choices (notes/assumptions/3.md, 4.md). -/
def Obligations.InitDoneLeavesACorrectTable : Prop :=
  ∀ (s : State) (rest : List Event), s.Inv → s.phase = .init →
    (s.inbox = .core :: rest ∨ s.inbox = [] ∧ rest = []) →
    ∃ table : SieveTable, step s = .next { s with inbox := rest, sieve := table, phase := .idle } ∧
      table.Correct s.len ∧
      (s.cfg.storage = .rom → table = s.sieve)

/-- What the reset input leaves, whatever the state was (70_reset_and_hazards.md R250, R253). That the build parameters
and the scheduled events stay is the model's choice (notes/assumptions/7.md). -/
def Obligations.ResetLeavesTheStatedValues : Prop :=
  ∀ (s : State) (rest : List Event), s.inbox = .reset :: rest →
    ∃ t, step s = .next t ∧ t.phase = .init ∧ t.ie = false ∧ t.irq = false ∧
      t.readReg .status = 1#64 ∧ t.readReg .ctrl = 0#64 ∧ t.readReg .cmd = 0#64 ∧ t.readReg .opa = 0#64 ∧
      t.readReg .opb = 0#64 ∧ t.readReg .res = 0#64 ∧ t.readReg .aux = 0#64 ∧ t.readReg .ctxN = 0#64 ∧
      t.readReg .ctxNinv = 0#64 ∧ t.readReg .ctxR = 0#64 ∧ t.readReg .ctxR2 = 0#64 ∧ t.readReg .ctxW = 0#64 ∧
      t.readReg .fit = 0#64 ∧ t.latCmd = 0#64 ∧ t.latA = 0#64 ∧ t.latB = 0#64 ∧
      t.readReg .id = 0x74D525054#64 ∧ t.readReg .sieveLen = s.cfg.sieveLen ∧ t.readReg .reserved = 0#64 ∧
      (s.cfg.storage = .rom → t.sieve.Correct s.len) ∧ t.cfg = s.cfg ∧ t.inbox = rest

/-- The order of a DONE-clearing write and a completion is the order of the two steps (60_exceptions.md R228). -/
def Obligations.DoneClearAndCompletionTakeEffectInOrder : Prop :=
  ∀ (s : State), s.Inv → s.phase = .exec →
    (∃ t, s.play [busWrite .status 0x2#64, .core] = .next t ∧ t.done = true) ∧
    (∃ t, s.play [.core, busWrite .status 0x2#64] = .next t ∧ t.done = false)

/-! ## The Montgomery commands -/

/-- MONT_SETUP of an odd modulus: the context of 41_montgomery.md R130, RES = 0 and AUX = 0 (R137). -/
def Obligations.MontSetupBuildsTheContext : Prop :=
  ∀ (w : Width) (s : State), s.latA.toNat % 2 = 1 → s.latA.toNat < 2 ^ w.bits →
    ∃ v : Nat, v < 2 ^ w.bits ∧ s.latA.toNat * v % 2 ^ w.bits = 1 ∧
      exec (.montSetup w) s = .next { s.withResult 0#64 0#64 with
        ctxN := s.latA, ctxNinv := BitVec.ofNat 64 v, ctxR := BitVec.ofNat 64 (2 ^ w.bits % s.latA.toNat),
        ctxR2 := BitVec.ofNat 64 (2 ^ w.bits % s.latA.toNat * (2 ^ w.bits % s.latA.toNat) % s.latA.toNat),
        ctxW := BitVec.ofNat 7 w.bits, ctxValid := true }

/-- MONT_SETUP of zero or of an even modulus in range: EVEN_MODULUS (code 5), the old context kept
(41_montgomery.md R137, 60_exceptions.md R222). -/
def Obligations.MontSetupReportsAnEvenModulus : Prop :=
  ∀ (w : Width) (s : State), s.latA.toNat % 2 = 0 → s.latA.toNat < 2 ^ w.bits →
    exec (.montSetup w) s = .next (s.withError 5#4)

/-- MONT_CONVERT gives a·R mod N, for every a < 2^W (41_montgomery.md R134, R138). -/
def Obligations.MontConvertGivesTheMontgomeryForm : Prop :=
  ∀ (w : Width) (s : State), s.ContextOk → s.HasContext w → s.latA.toNat < 2 ^ w.bits →
    exec (.montConvert w) s =
      .next (s.withResult (BitVec.ofNat 64 (s.latA.toNat * 2 ^ w.bits % s.ctxN.toNat)) 0#64)

/-- MONT_MUL gives d < 2^W with d·R ≡ a·b (mod N); reduced below N when a·b < N·R, and (T − U)/R exactly otherwise
(41_montgomery.md R133 laws 2 to 4, R139). -/
def Obligations.MontMulGivesTheMontgomeryProduct : Prop :=
  ∀ (w : Width) (s : State), s.ContextOk → s.HasContext w →
    s.latA.toNat < 2 ^ w.bits → s.latB.toNat < 2 ^ w.bits →
    ∃ d : Nat, exec (.montMul w) s = .next (s.withResult (BitVec.ofNat 64 d) 0#64) ∧
      d < 2 ^ w.bits ∧ d * 2 ^ w.bits % s.ctxN.toNat = s.latA.toNat * s.latB.toNat % s.ctxN.toNat ∧
      (s.latA.toNat * s.latB.toNat < s.ctxN.toNat * 2 ^ w.bits → d < s.ctxN.toNat) ∧
      (s.ctxN.toNat * 2 ^ w.bits ≤ s.latA.toNat * s.latB.toNat →
        d = (s.latA.toNat * s.latB.toNat
              - s.latA.toNat * s.latB.toNat * s.ctxNinv.toNat % 2 ^ w.bits * s.ctxN.toNat) / 2 ^ w.bits)

/-- MONT_POW: CTX_R for e = 0; otherwise d < N with d·R^(e−1) ≡ x^e (mod N), for every x < 2^W
(41_montgomery.md R136, R140). -/
def Obligations.MontPowGivesTheClosedForm : Prop :=
  ∀ (w : Width) (s : State), s.ContextOk → s.HasContext w →
    s.latA.toNat < 2 ^ w.bits → s.latB.toNat < 2 ^ w.bits →
    ∃ d : Nat, exec (.montPow w) s = .next (s.withResult (BitVec.ofNat 64 d) 0#64) ∧ d < s.ctxN.toNat ∧
      (s.latB.toNat = 0 → d = s.ctxR.toNat) ∧
      (1 ≤ s.latB.toNat →
        d * (2 ^ w.bits) ^ (s.latB.toNat - 1) % s.ctxN.toNat = s.latA.toNat ^ s.latB.toNat % s.ctxN.toNat)

/-! ## The sieve commands -/

/-- SIEVE_ISPRIME decides primality below LEN (42_sieve.md R160, R164). -/
def Obligations.SieveIsPrimeDecidesPrimality : Prop :=
  ∀ (w : Width) (s : State), s.Inv → s.phase = .exec → s.latA.toNat < 2 ^ w.bits → s.latA.toNat < s.len →
    exec (.sieveIsPrime w) s = .next (s.withResult (if s.latA.toNat.Prime then 1#64 else 0#64) 0#64)

/-- SIEVE_LPF gives the least prime factor, or all ones for 0 and 1 (42_sieve.md R160, R165). -/
def Obligations.SieveLpfGivesTheLeastPrimeFactor : Prop :=
  ∀ (w : Width) (s : State), s.Inv → s.phase = .exec → s.latA.toNat < 2 ^ w.bits → s.latA.toNat < s.len →
    exec (.sieveLpf w) s = .next (s.withResult
      (if s.latA.toNat < 2 then 0xFFFF_FFFF_FFFF_FFFF#64 else BitVec.ofNat 64 s.latA.toNat.minFac) 0#64)

/-- FACTOR_START puts its operand into FIT; AUX says whether the sequence is empty (42_sieve.md R166). -/
def Obligations.FactorStartLoadsTheIterator : Prop :=
  ∀ (w : Width) (s : State), s.latA.toNat < 2 ^ w.bits → s.latA.toNat < s.len →
    exec (.factorStart w) s = .next { s.withResult 0#64 (if s.latA.toNat < 2 then 1#64 else 0#64) with fit := s.latA }

/-- FACTOR_NEXT gives the least prime factor of FIT and divides it out, or END when FIT ≤ 1 (42_sieve.md R167). -/
def Obligations.FactorNextDividesOutTheLeastPrimeFactor : Prop :=
  ∀ (w : Width) (s : State), s.Inv → s.phase = .exec →
    (s.fit.toNat ≤ 1 → exec (.factorNext w) s = .next (s.withResult 0#64 1#64)) ∧
    (2 ≤ s.fit.toNat → exec (.factorNext w) s = .next { s.withResult (BitVec.ofNat 64 s.fit.toNat.minFac) 0#64 with
      fit := BitVec.ofNat 64 (s.fit.toNat / s.fit.toNat.minFac) })

/-- PRIME_NEXT gives the least prime of [v, LEN), or END when there is none, also for v ≥ LEN (42_sieve.md R168). -/
def Obligations.PrimeNextGivesTheLeastPrimeFromHere : Prop :=
  ∀ (w : Width) (s : State), s.Inv → s.phase = .exec → s.latA.toNat < 2 ^ w.bits →
    (∀ q : Nat, q.Prime → s.latA.toNat ≤ q → q < s.len →
      (∀ r : Nat, r.Prime → s.latA.toNat ≤ r → q ≤ r) →
      exec (.primeNext w) s = .next (s.withResult (BitVec.ofNat 64 q) 0#64)) ∧
    ((∀ q : Nat, q.Prime → s.latA.toNat ≤ q → s.len ≤ q) →
      exec (.primeNext w) s = .next (s.withResult 0#64 1#64))

/-- SIEVE_ISPRIME, SIEVE_LPF and FACTOR_START of an index outside the table: SIEVE_RANGE (code 6), nothing else changes
(42_sieve.md R163). -/
def Obligations.SieveLookupsOutsideTheTableReportSieveRange : Prop :=
  ∀ (w : Width) (s : State), s.latA.toNat < 2 ^ w.bits → s.len ≤ s.latA.toNat →
    exec (.sieveIsPrime w) s = .next (s.withError 6#4) ∧
    exec (.sieveLpf w) s = .next (s.withError 6#4) ∧
    exec (.factorStart w) s = .next (s.withError 6#4)

/-- `build()` gives exactly the contents of 42_sieve.md R160 for every LEN ≥ 1, which ROM storage holds too (R162). That equal
contents are equal lists of cells rests on the table's canonical form, the model's choice (notes/assumptions/9.md). -/
def Obligations.LinearSieveBuildsTheLeastPrimeFactorTable : Prop :=
  ∀ len : Nat, 1 ≤ len → len < 2 ^ 64 → (buildTable len).Correct len ∧ buildTable len = romTable len

/-- `build()` writes each composite c < LEN exactly once, with p = lpf(c) and i = c / p (42_sieve.md R162). buildWrites is the
trace of its writes A[p·i] <- p: making them one after the other in the empty table gives buildTable, the table `step`
installs; they are the prime writes (i = 1) and the composite writes buildPairs (i ≥ 2), to each index from 2 below LEN
once; and there are π(LEN − 1) prime writes and LEN − 2 − π(LEN − 1) composite writes (70_reset_and_hazards.md R261). -/
def Obligations.LinearSieveMarksEachCompositeOnce : Prop :=
  ∀ len : Nat, 1 ≤ len → len < 2 ^ 64 →
    replayWrites (buildWrites len) [] = buildTable len ∧
    (∀ p i : Nat, (p, i) ∈ buildWrites len ↔ 2 ≤ p * i ∧ p * i < len ∧ p = (p * i).minFac) ∧
    ((buildWrites len).map fun x => x.1 * x.2).Nodup ∧
    (∀ p i : Nat, (p, i) ∈ buildPairs len ↔
      p * i < len ∧ 2 ≤ p * i ∧ ¬ (p * i).Prime ∧ p = (p * i).minFac) ∧
    ((buildPairs len).map fun x => x.1 * x.2).Nodup ∧
    (buildWrites len).length = (buildPairs len).length + ((List.range len).filter fun q => decide q.Prime).length ∧
    (2 ≤ len →
      (buildPairs len).length = len - 2 - ((List.range len).filter fun q => decide q.Prime).length)

/-- The factor sequence (42_sieve.md R170): after FACTOR_START(v), the RES values of FACTOR_NEXT up to the first END are
the prime factors of v with multiplicity, in non-decreasing order, with product v; empty for v < 2. At most 63
factors come before END, so 64 commands reach it. factorsRead runs the completions alone, one after the other, with no
acceptance between them: exec does not look at the phase, which is the model's choice (notes/assumptions/16.md). -/
def Obligations.FactorSequenceIsThePrimeFactorization : Prop :=
  ∀ (w w' : Width) (s : State) (n : Nat), s.Inv → s.phase = .exec → s.latA.toNat < 2 ^ w.bits →
    s.latA.toNat < s.len → 64 ≤ n →
    ∃ t, exec (.factorStart w) s = .next t ∧
      (∀ p ∈ factorsRead w' n t, p.Prime) ∧ (factorsRead w' n t).Pairwise (· ≤ ·) ∧
      (2 ≤ s.latA.toNat → (factorsRead w' n t).prod = s.latA.toNat) ∧
      (s.latA.toNat < 2 → factorsRead w' n t = [])

/-- Enumeration (42_sieve.md R171): PRIME_NEXT from 0, each time one above the last prime, outputs every prime below LEN
once, in ascending order, and then stops, whatever commands ran before: at every width that can hold the operands,
LEN ≤ 2^W, so at width 64 for every LEN. primesRead runs the completions alone, one after the other, with no acceptance
between them: exec does not look at the phase, which is the model's choice (notes/assumptions/16.md). -/
def Obligations.PrimeEnumerationListsEveryPrimeBelowTheBound : Prop :=
  ∀ (w : Width) (s : State) (n : Nat), s.Inv → s.phase = .exec → s.len ≤ 2 ^ w.bits → s.len ≤ n →
    primesRead w n 0#64 s = (List.range s.len).filter fun q => decide q.Prime

/-! ## The Miller-Rabin commands -/

/-- MR_ROUND decides one strong-test round modulo CTX_N, in terms of powers modulo N: m and t are the decomposition
N − 1 = t·2^m of 43_miller_rabin.md R191, RES and AUX as in R192 and R195. -/
def Obligations.MrRoundDecidesOneWitness : Prop :=
  ∀ (w : Width) (s : State) (m t : Nat), s.ContextOk → s.HasContext w → s.latA.toNat < 2 ^ w.bits →
    (s.ctxN.toNat = 1 ∨ s.ctxN.toNat - 1 = 2 ^ m * t ∧ t % 2 = 1) →
    (s.latA.toNat % s.ctxN.toNat = 0 → exec (.mrRound w) s = .next (s.withResult 2#64 0xFF00#64)) ∧
    (s.latA.toNat % s.ctxN.toNat ≠ 0 →
      (s.latA.toNat ^ t % s.ctxN.toNat = 1 ∨ s.latA.toNat ^ t % s.ctxN.toNat = s.ctxN.toNat - 1) →
      exec (.mrRound w) s = .next (s.withResult 1#64 (BitVec.ofNat 64 m))) ∧
    (s.latA.toNat % s.ctxN.toNat ≠ 0 →
      ¬ (s.latA.toNat ^ t % s.ctxN.toNat = 1 ∨ s.latA.toNat ^ t % s.ctxN.toNat = s.ctxN.toNat - 1) →
      (∀ j, 1 ≤ j → j < m → s.latA.toNat ^ (t * 2 ^ j) % s.ctxN.toNat = s.ctxN.toNat - 1 →
        (∀ k, 1 ≤ k → k < j → s.latA.toNat ^ (t * 2 ^ k) % s.ctxN.toNat ≠ s.ctxN.toNat - 1) →
        exec (.mrRound w) s = .next (s.withResult 1#64 (BitVec.ofNat 64 (m + 256 * j)))) ∧
      ((∀ j, 1 ≤ j → j < m → s.latA.toNat ^ (t * 2 ^ j) % s.ctxN.toNat ≠ s.ctxN.toNat - 1) →
        exec (.mrRound w) s = .next (s.withResult 0#64 (BitVec.ofNat 64 (m + 0xFF00)))))

/-- MR_TEST's trivial filter and sieve shortcut, with their AUX words (43_miller_rabin.md R193 steps 1 and 3, R199). -/
def Obligations.MrTestAnswersTrivialAndSmallCandidates : Prop :=
  ∀ (w : Width) (s : State), s.Inv → s.phase = .exec → s.latA.toNat < 2 ^ w.bits →
    ((s.latA.toNat = 1 ∨ s.latA.toNat % 2 = 0) →
      exec (.mrTest w) s = .next (s.withResult (if s.latA.toNat = 2 then 1#64 else 0#64) 0xF0#64)) ∧
    (s.latA.toNat ≠ 1 → s.latA.toNat % 2 = 1 → s.latA.toNat < s.len →
      exec (.mrTest w) s = .next (s.withResult (if s.latA.toNat.Prime then 1#64 else 0#64)
        (if w = .w64 ∧ s.latA.toNat < 1795265022 then 0xF5#64 else 0xF1#64)))

/-- MR_TEST's witness loop, for a candidate that reaches it without the cascade: RES and the whole AUX word in terms of
the strong test (43_miller_rabin.md R190 to R193, R199). -/
def Obligations.MrTestRunsTheWitnessLoop : Prop :=
  ∀ (w : Width) (s : State) (m t : Nat) (wit : List Nat),
    s.latA.toNat < 2 ^ w.bits → 3 ≤ s.latA.toNat → s.latA.toNat % 2 = 1 → s.len ≤ s.latA.toNat →
    (w = .w64 → 1795265022 ≤ s.latA.toNat) →
    s.latA.toNat - 1 = 2 ^ m * t → t % 2 = 1 →
    wit = (if w = .w64 then [2, 325, 9375, 28178, 450775, 9780504, 1795265022] else [2, 7, 61]) →
    ((∀ a ∈ wit, a % s.latA.toNat = 0 ∨ StrongProbablePrime s.latA.toNat a) →
      exec (.mrTest w) s = .next (s.withResult 1#64
        (BitVec.ofNat 64 (0xF2 + 256 * wit.countP (· % s.latA.toNat = 0) + 65536 * m)))) ∧
    (∀ (i a : Nat), wit[i]? = some a → a % s.latA.toNat ≠ 0 → ¬ StrongProbablePrime s.latA.toNat a →
      (∀ b ∈ wit.take i, b % s.latA.toNat = 0 ∨ StrongProbablePrime s.latA.toNat b) →
      exec (.mrTest w) s = .next (s.withResult 0#64
        (BitVec.ofNat 64 (2 + 16 * i + 256 * (wit.take i).countP (· % s.latA.toNat = 0) + 65536 * m))))

/-- The width cascade (43_miller_rabin.md R193 step 2, R194, R199): an odd candidate below the bound gets at W = 64 the
answer of W = 32, with CASC set in AUX. -/
def Obligations.MrTestCascadesToThirtyTwoBits : Prop :=
  ∀ s : State, s.latA.toNat % 2 = 1 → s.latA.toNat ≠ 1 → s.latA.toNat < 1795265022 →
    ∃ t, exec (.mrTest .w32) s = .next t ∧ t.err = 0#4 ∧
      exec (.mrTest .w64) s = .next { t with aux := t.aux ||| 4#64 }

/-- MR_TEST answers 1 for every prime, at every width and every LEN: no false negative, with no assumption about the
witness sets (43_miller_rabin.md R193, R197). -/
def Obligations.MrTestAcceptsEveryPrime : Prop :=
  ∀ (w : Width) (s : State), s.Inv → s.phase = .exec → s.latA.toNat < 2 ^ w.bits → s.latA.toNat.Prime →
    ∃ aux, exec (.mrTest w) s = .next (s.withResult 1#64 aux)

/-- MR_TEST answers 0 for every non-prime, given for a candidate that reaches the witness loop a base of its witness set
that is not ≡ 0 and that it fails (43_miller_rabin.md R193, R197). So at a width whose witness set is sufficient, and at
W = 64 the set of its cascade too, RES = 1 iff p is prime, which is the law of R197 at that width. That the sets are
sufficient is R197's named assumption, WitnessSetsAreSufficient, which the spec does not prove
(notes/assumptions/15.md). -/
def Obligations.MrTestRejectsCompositesThatHaveAWitness : Prop :=
  (∀ (w : Width) (s : State) (wit : List Nat), s.Inv → s.phase = .exec → s.latA.toNat < 2 ^ w.bits →
    ¬ s.latA.toNat.Prime →
    wit = (if w = .w64 ∧ 1795265022 ≤ s.latA.toNat
      then [2, 325, 9375, 28178, 450775, 9780504, 1795265022] else [2, 7, 61]) →
    (s.latA.toNat % 2 = 1 → s.len ≤ s.latA.toNat → s.latA.toNat ≠ 1 →
      ∃ a ∈ wit, a % s.latA.toNat ≠ 0 ∧ ¬ StrongProbablePrime s.latA.toNat a) →
    ∃ aux, exec (.mrTest w) s = .next (s.withResult 0#64 aux)) ∧
  (∀ w : Width, WitnessSetSuffices w → (w = .w64 → WitnessSetSuffices .w32) → MrTestIsExactAt w)

/-- The work bounds of 70_reset_and_hazards.md R261 and 43_miller_rabin.md R201, for every command in every state: the counting
twin execCounted answers what exec answers, and the mont_mul evaluations and table reads it makes on the way are bounded as
the table of R261 says, row by row; a command that fails makes none. Only MR_ROUND's row needs the context invariant. -/
def Obligations.WorkPerCommandIsBounded : Prop :=
  (∀ (i : Instr) (s : State), (execCounted i s).value = exec i s) ∧
  (∀ (i : Instr) (s t : State), exec i s = .next t → t.err ≠ 0#4 → (execCounted i s).work = ⟨0, 0⟩) ∧
  ∀ (w : Width) (s : State),
    (execCounted (.montSetup w) s).work = ⟨0, 0⟩ ∧
    (∀ t, exec (.montConvert w) s = .next t → t.err = 0#4 → (execCounted (.montConvert w) s).work = ⟨1, 0⟩) ∧
    (∀ t, exec (.montMul w) s = .next t → t.err = 0#4 → (execCounted (.montMul w) s).work = ⟨1, 0⟩) ∧
    ((execCounted (.montPow w) s).work.muls ≤ 2 * s.latB.toNat.size ∧
      (execCounted (.montPow w) s).work.muls ≤ 2 * w.bits ∧ (execCounted (.montPow w) s).work.reads = 0) ∧
    (s.ContextOk → (execCounted (.mrRound w) s).work.muls ≤ 2 * w.bits - ctz (s.ctxN.toNat - 1)) ∧
    (execCounted (.mrRound w) s).work.reads = 0 ∧
    ((execCounted (.mrTest w) s).work.muls ≤ (match w with | .w8 => 45 | .w16 => 93 | .w32 => 189 | .w64 => 889) ∧
      (execCounted (.mrTest w) s).work.reads ≤ 1 ∧
      ((execCounted (.mrTest w) s).work.reads = 0 ∨ (execCounted (.mrTest w) s).work.muls = 0)) ∧
    (∀ t, exec (.sieveIsPrime w) s = .next t → t.err = 0#4 → (execCounted (.sieveIsPrime w) s).work = ⟨0, 1⟩) ∧
    (∀ t, exec (.sieveLpf w) s = .next t → t.err = 0#4 → (execCounted (.sieveLpf w) s).work = ⟨0, 1⟩) ∧
    ((execCounted (.factorNext w) s).work.muls = 0 ∧ (execCounted (.factorNext w) s).work.reads ≤ 1) ∧
    (execCounted (.factorStart w) s).work = ⟨0, 0⟩ ∧
    ((execCounted (.primeNext w) s).work.muls = 0 ∧
      (execCounted (.primeNext w) s).work.reads ≤ s.len - s.latA.toNat)

/-- The decomposition of 43_miller_rabin.md R191: for odd p ≥ 3 below 2^W, with s = ctz(p − 1) and t = (p − 1) >> s,
p − 1 = t·2^s with t odd, 1 ≤ s ≤ W − 1 and t < 2^W. -/
def Obligations.DecompositionOfAnOddCandidate : Prop :=
  ∀ (w : Width) (p : Nat), p % 2 = 1 → 3 ≤ p → p < 2 ^ w.bits →
    p - 1 = (p - 1) >>> ctz (p - 1) * 2 ^ ctz (p - 1) ∧ (p - 1) >>> ctz (p - 1) % 2 = 1 ∧
      1 ≤ ctz (p - 1) ∧ ctz (p - 1) ≤ w.bits - 1 ∧ (p - 1) >>> ctz (p - 1) < 2 ^ w.bits

/-! ## Command errors -/

/-- The context check (40_command_cycle.md R115): a command that needs a context completes with NO_CONTEXT (code 2)
without one, and with WIDTH_MISMATCH (code 3) at another width. -/
def Obligations.ContextCommandsNeedAContextOfTheirWidth : Prop :=
  ∀ (w : Width) (s : State), ∀ i ∈ [Instr.montConvert w, .montMul w, .montPow w, .mrRound w],
    (s.ctxValid = false → exec i s = .next (s.withError 2#4)) ∧
    (s.ctxValid = true → s.ctxW.toNat ≠ w.bits → exec i s = .next (s.withError 3#4))

/-- The operand range check (40_command_cycle.md R116), after the context check (R120): LAT.A for every command but
FACTOR_NEXT, LAT.B for MONT_MUL and MONT_POW; OPERAND_RANGE is code 4. -/
def Obligations.OperandsOutOfRangeAreReported : Prop :=
  ∀ (w : Width) (s : State),
    (2 ^ w.bits ≤ s.latA.toNat →
      (∀ i ∈ [Instr.montSetup w, .sieveIsPrime w, .sieveLpf w, .factorStart w, .primeNext w, .mrTest w],
        exec i s = .next (s.withError 4#4)) ∧
      (s.HasContext w → ∀ i ∈ [Instr.montConvert w, .montMul w, .montPow w, .mrRound w],
        exec i s = .next (s.withError 4#4))) ∧
    (2 ^ w.bits ≤ s.latB.toNat → s.HasContext w → ∀ i ∈ [Instr.montMul w, .montPow w],
      exec i s = .next (s.withError 4#4))

/-- Errors are precise (60_exceptions.md R222): a command that completes with an error changes ERR, DONE and the phase
and nothing else, and the code is one of 1 to 6 (R220). -/
def Obligations.FailedCommandsChangeOnlyStatus : Prop :=
  ∀ (i : Instr) (s t : State), exec i s = .next t → t.err ≠ 0#4 →
    t = s.withError t.err ∧ 1 ≤ t.err.toNat ∧ t.err.toNat ≤ 6

/-- What a completion may change (40_command_cycle.md R117): DONE is set and the core is IDLE, so an enabled interrupt is
asserted, whether the command succeeded or failed (60_exceptions.md R227); the context changes only by MONT_SETUP, FIT
only by FACTOR_START and FACTOR_NEXT; every other register, the latches and the table stay. -/
def Obligations.CompletionFrame : Prop :=
  ∀ (i : Instr) (s t : State), exec i s = .next t →
    t.done = true ∧ t.phase = .idle ∧ t.irq = s.ie ∧ t.cfg = s.cfg ∧ t.ie = s.ie ∧ t.overrun = s.overrun ∧ t.cmd = s.cmd ∧
    t.opa = s.opa ∧ t.opb = s.opb ∧ t.latCmd = s.latCmd ∧ t.latA = s.latA ∧ t.latB = s.latB ∧
    (∀ j, t.sieve.get j = s.sieve.get j) ∧ t.sieve = s.sieve ∧
    t.inbox = s.inbox ∧ t.reply = s.reply ∧ t.resets = s.resets ∧
    ((∀ w, i ≠ .montSetup w) → t.ctxValid = s.ctxValid ∧ t.ctxN = s.ctxN ∧ t.ctxNinv = s.ctxNinv ∧
      t.ctxR = s.ctxR ∧ t.ctxR2 = s.ctxR2 ∧ t.ctxW = s.ctxW) ∧
    ((∀ w, i ≠ .factorStart w ∧ i ≠ .factorNext w) → t.fit = s.fit)

/-! ## Invariants of every step -/

/-- The state after reset has the machine's invariant. Its build parameters are the model's choice
(notes/assumptions/1.md, 2.md). -/
def Obligations.ResetHasTheInvariant : Prop := State.reset.Inv

/-- So has every state a reset leaves, for every legal choice of build parameters. -/
def Obligations.EveryConfigurationResetsIntoTheInvariant : Prop :=
  ∀ (cfg : Config) (n : Nat) (events : List Event), cfg.wellFormed = true → (State.afterReset cfg n events).Inv

/-- The context invariant of 10_state.md R53 is kept by every step. -/
def Obligations.StepKeepsTheContextConsistent : Prop :=
  ∀ s t : State, s.ContextOk → step s = .next t → t.ContextOk

/-- The invariant of FIT (42_sieve.md R169) is kept by every step. -/
def Obligations.StepKeepsTheIteratorInRange : Prop :=
  ∀ s t : State, s.FitOk → step s = .next t → t.FitOk

/-- Every step keeps the whole invariant: a consistent context, FIT in range, a correct and canonical sieve table,
error codes 0 to 6, CMD equal to LAT.CMD, and no DONE while busy. -/
def Obligations.StepKeepsTheInvariant : Prop :=
  ∀ s t : State, s.Inv → step s = .next t → t.Inv

/-- Under the invariant no step faults, and a step whose event is admitted answers a next state: no behaviour of the
core is stuck (93_implementation_defined.md, part 2). -/
def Obligations.NoStepIsStuck : Prop :=
  ∀ s : State, s.Inv → s.InboxAdmitted → ∃ t, step s = .next t

/-! ## Rules of the whole machine -/

/-- Only a successful MONT_SETUP writes the context registers (10_state.md R46), reset apart. -/
def Obligations.OnlyMontSetupAndResetWriteTheContext : Prop :=
  ∀ s t : State, step s = .next t →
    ¬ (t.ctxN = s.ctxN ∧ t.ctxNinv = s.ctxNinv ∧ t.ctxR = s.ctxR ∧ t.ctxR2 = s.ctxR2 ∧ t.ctxW = s.ctxW ∧
      t.ctxValid = s.ctxValid) →
    (∃ rest, s.inbox = .reset :: rest) ∨
    (s.phase = .exec ∧ t.phase = .idle ∧ t.err = 0#4 ∧ ∃ w, decode s.latCmd = .ok (.montSetup w))

/-- FIT is written by FACTOR_START and FACTOR_NEXT only (10_state.md R49), reset apart. -/
def Obligations.OnlyFactorCommandsAndResetWriteFit : Prop :=
  ∀ s t : State, step s = .next t → t.fit ≠ s.fit →
    (∃ rest, s.inbox = .reset :: rest) ∨
    (s.phase = .exec ∧ t.phase = .idle ∧ t.err = 0#4 ∧
      ∃ w, decode s.latCmd = .ok (.factorStart w) ∨ decode s.latCmd = .ok (.factorNext w))

/-- CTX_VALID is cleared by reset only (10_state.md R38); OVERRUN by reset or by a STATUS write with bit 2 set only
(R37). -/
def Obligations.StickyFlagsAreClearedOnlyAsStated : Prop :=
  ∀ s t : State, step s = .next t →
    (s.ctxValid = true → t.ctxValid = false → ∃ rest, s.inbox = .reset :: rest) ∧
    (s.overrun = true → t.overrun = false →
      (∃ rest, s.inbox = .reset :: rest) ∨
      ∃ v rest, s.inbox = .host (.write 8 0x18 v) :: rest ∧ v.getLsbD 2 = true)

/-- RES and AUX change only at the completion of a successful command (10_state.md R44, R45), reset apart. -/
def Obligations.ResultsChangeOnlyAtSuccessfulCompletion : Prop :=
  ∀ s t : State, step s = .next t → (t.res ≠ s.res ∨ t.aux ≠ s.aux) →
    (∃ rest, s.inbox = .reset :: rest) ∨
    (s.phase = .exec ∧ t.phase = .idle ∧ t.done = true ∧ t.err = 0#4)

/-- The outcome of a command is a function of its latched operands, the context, FIT, the table and the configuration
(40_command_cycle.md R121): nothing else in the state can reach it. -/
def Obligations.OutcomeDependsOnlyOnLatchesContextFitAndTable : Prop :=
  ∀ (i : Instr) (s s' t : State), s'.cfg = s.cfg → s'.latA = s.latA → s'.latB = s.latB → s'.ctxValid = s.ctxValid →
    s'.ctxN = s.ctxN → s'.ctxNinv = s.ctxNinv → s'.ctxR = s.ctxR → s'.ctxR2 = s.ctxR2 → s'.ctxW = s.ctxW →
    s'.fit = s.fit → s'.sieve = s.sieve → exec i s = .next t →
    ∃ t', exec i s' = .next t' ∧ t'.err = t.err ∧ (t.err = 0#4 → t'.res = t.res ∧ t'.aux = t.aux) ∧
      t'.ctxValid = t.ctxValid ∧ t'.ctxN = t.ctxN ∧ t'.ctxNinv = t.ctxNinv ∧ t'.ctxR = t.ctxR ∧
      t'.ctxR2 = t.ctxR2 ∧ t'.ctxW = t.ctxW ∧ t'.fit = t.fit

/-- Any admitted host transactions between acceptance and completion leave a command's results as they would be with
none: RES, AUX, ERR, DONE, the context and FIT (40_command_cycle.md R112, R113, R118). The latched word is any, one that
does not decode among them (R114). -/
def Obligations.ResultsDoNotDependOnLatency : Prop :=
  ∀ (s t : State) (hosts : List Txn), s.phase = .exec → (∀ h ∈ hosts, h.admitted = true) → s.runLatched = .next t →
    ∃ u, s.play (hosts.map Event.host ++ [.core]) = .next u ∧
      u.res = t.res ∧ u.aux = t.aux ∧ u.err = t.err ∧ u.done = true ∧ u.phase = .idle ∧ u.cmd = s.cmd ∧
      u.ctxValid = t.ctxValid ∧ u.ctxN = t.ctxN ∧ u.ctxNinv = t.ctxNinv ∧ u.ctxR = t.ctxR ∧
      u.ctxR2 = t.ctxR2 ∧ u.ctxW = t.ctxW ∧ u.fit = t.fit

/-- Every accepted command completes after finitely many steps, unless reset comes first (40_command_cycle.md R119):
at the latest one step after the scheduled events are over, which is the model's form of weak fairness
(notes/assumptions/4.md). -/
def Obligations.EveryCommandCompletes : Prop :=
  ∀ s : State, s.Inv → s.phase = .exec → s.InboxAdmitted → .reset ∉ s.inbox →
    ∃ (n : Nat) (t : State), n ≤ s.inbox.length + 1 ∧ Sys2Proof.core.run n s = .next t ∧ t.phase = .idle ∧
      t.done = true ∧ t.cmd = s.cmd

/-! ## Pseudo-commands -/

/-- MONT_FROM.W x reads x·Rinv mod N, for every x < 2^W (30_encoding.md R99) and every latency, as the number of polls in the
wait line; that schedule of a wait line is the model's choice (notes/assumptions/18.md). -/
def Obligations.MontFromReadsTheOrdinaryResidue : Prop :=
  ∀ (w : Width) (s : State) (x : Word) (polls : Nat), s.ContextOk → s.HasContext w → s.phase = .idle →
    x.toNat < 2 ^ w.bits →
    ∃ (t : State) (d : Nat), s.play (hostEvents (montFrom w x polls)) = .next t ∧ t.reply = .data (BitVec.ofNat 64 d) ∧
      d < s.ctxN.toNat ∧ d * 2 ^ w.bits % s.ctxN.toNat = x.toNat % s.ctxN.toNat

/-- MODMUL.W a, b reads a·b mod N (30_encoding.md R99), at every number of polls in the wait lines; that schedule of a wait
line, and the cut of the program at its first read of RES, are the model's choices (notes/assumptions/18.md). -/
def Obligations.ModMulReadsTheModularProduct : Prop :=
  ∀ (w : Width) (s : State) (a b : Word) (k k' : Nat), s.ContextOk → s.HasContext w → s.phase = .idle →
    a.toNat < 2 ^ w.bits → b.toNat < 2 ^ w.bits →
    ∃ (t t' : State) (r : Word), s.play (hostEvents (modEnter w a k)) = .next t ∧ t.reply = .data r ∧
      t.play (hostEvents (modMulFinish w r b k')) = .next t' ∧
      t'.reply = .data (BitVec.ofNat 64 (a.toNat * b.toNat % s.ctxN.toNat))

/-- MODPOW.W b, e reads b^e mod N, with 0^0 = 1 mod N (30_encoding.md R99), at every number of polls in the wait lines; that
schedule of a wait line, and the cuts of the program at its reads of RES, are the model's choices
(notes/assumptions/18.md). -/
def Obligations.ModPowReadsTheModularPower : Prop :=
  ∀ (w : Width) (s : State) (b e : Word) (k k' k'' : Nat), s.ContextOk → s.HasContext w → s.phase = .idle →
    b.toNat < 2 ^ w.bits → e.toNat < 2 ^ w.bits →
    ∃ (t t' t'' : State) (r r' : Word), s.play (hostEvents (modEnter w b k)) = .next t ∧ t.reply = .data r ∧
      t.play (hostEvents (modPowMiddle w r e k')) = .next t' ∧ t'.reply = .data r' ∧
      t'.play (hostEvents (montFrom w r' k'')) = .next t'' ∧
      t''.reply = .data (BitVec.ofNat 64 (b.toNat ^ e.toNat % s.ctxN.toNat))
end

