-- ==== Sys2Proof/Laws/State.lean ====
section
/-! SUPPORT. One lemma per field per named update of the state (Machine/Ops.lean, Machine/Flags.lean, Safety.lean), so
that later proofs do not unfold a record update. -/

namespace Sys2Proof.Machine

/-! ## Acceptance (R110) -/

@[simp] theorem State.accept_cfg (v : Word) (s : State) : (s.accept v).cfg = s.cfg := rfl
@[simp] theorem State.accept_phase (v : Word) (s : State) : (s.accept v).phase = .exec := rfl
@[simp] theorem State.accept_ie (v : Word) (s : State) : (s.accept v).ie = s.ie := rfl
@[simp] theorem State.accept_done (v : Word) (s : State) : (s.accept v).done = false := rfl
@[simp] theorem State.accept_overrun (v : Word) (s : State) : (s.accept v).overrun = s.overrun := rfl
@[simp] theorem State.accept_ctxValid (v : Word) (s : State) : (s.accept v).ctxValid = s.ctxValid := rfl
@[simp] theorem State.accept_err (v : Word) (s : State) : (s.accept v).err = s.err := rfl
@[simp] theorem State.accept_cmd (v : Word) (s : State) : (s.accept v).cmd = v := rfl
@[simp] theorem State.accept_opa (v : Word) (s : State) : (s.accept v).opa = s.opa := rfl
@[simp] theorem State.accept_opb (v : Word) (s : State) : (s.accept v).opb = s.opb := rfl
@[simp] theorem State.accept_res (v : Word) (s : State) : (s.accept v).res = s.res := rfl
@[simp] theorem State.accept_aux (v : Word) (s : State) : (s.accept v).aux = s.aux := rfl
@[simp] theorem State.accept_ctxN (v : Word) (s : State) : (s.accept v).ctxN = s.ctxN := rfl
@[simp] theorem State.accept_ctxNinv (v : Word) (s : State) : (s.accept v).ctxNinv = s.ctxNinv := rfl
@[simp] theorem State.accept_ctxR (v : Word) (s : State) : (s.accept v).ctxR = s.ctxR := rfl
@[simp] theorem State.accept_ctxR2 (v : Word) (s : State) : (s.accept v).ctxR2 = s.ctxR2 := rfl
@[simp] theorem State.accept_ctxW (v : Word) (s : State) : (s.accept v).ctxW = s.ctxW := rfl
@[simp] theorem State.accept_fit (v : Word) (s : State) : (s.accept v).fit = s.fit := rfl
@[simp] theorem State.accept_latCmd (v : Word) (s : State) : (s.accept v).latCmd = v := rfl
@[simp] theorem State.accept_latA (v : Word) (s : State) : (s.accept v).latA = s.opa := rfl
@[simp] theorem State.accept_latB (v : Word) (s : State) : (s.accept v).latB = s.opb := rfl
@[simp] theorem State.accept_sieve (v : Word) (s : State) : (s.accept v).sieve = s.sieve := rfl
@[simp] theorem State.accept_inbox (v : Word) (s : State) : (s.accept v).inbox = s.inbox := rfl
@[simp] theorem State.accept_reply (v : Word) (s : State) : (s.accept v).reply = s.reply := rfl
@[simp] theorem State.accept_resets (v : Word) (s : State) : (s.accept v).resets = s.resets := rfl

/-! ## Rejection (R111) -/

@[simp] theorem State.reject_cfg (s : State) : (s.reject).cfg = s.cfg := rfl
@[simp] theorem State.reject_phase (s : State) : (s.reject).phase = s.phase := rfl
@[simp] theorem State.reject_ie (s : State) : (s.reject).ie = s.ie := rfl
@[simp] theorem State.reject_done (s : State) : (s.reject).done = s.done := rfl
@[simp] theorem State.reject_overrun (s : State) : (s.reject).overrun = true := rfl
@[simp] theorem State.reject_ctxValid (s : State) : (s.reject).ctxValid = s.ctxValid := rfl
@[simp] theorem State.reject_err (s : State) : (s.reject).err = s.err := rfl
@[simp] theorem State.reject_cmd (s : State) : (s.reject).cmd = s.cmd := rfl
@[simp] theorem State.reject_opa (s : State) : (s.reject).opa = s.opa := rfl
@[simp] theorem State.reject_opb (s : State) : (s.reject).opb = s.opb := rfl
@[simp] theorem State.reject_res (s : State) : (s.reject).res = s.res := rfl
@[simp] theorem State.reject_aux (s : State) : (s.reject).aux = s.aux := rfl
@[simp] theorem State.reject_ctxN (s : State) : (s.reject).ctxN = s.ctxN := rfl
@[simp] theorem State.reject_ctxNinv (s : State) : (s.reject).ctxNinv = s.ctxNinv := rfl
@[simp] theorem State.reject_ctxR (s : State) : (s.reject).ctxR = s.ctxR := rfl
@[simp] theorem State.reject_ctxR2 (s : State) : (s.reject).ctxR2 = s.ctxR2 := rfl
@[simp] theorem State.reject_ctxW (s : State) : (s.reject).ctxW = s.ctxW := rfl
@[simp] theorem State.reject_fit (s : State) : (s.reject).fit = s.fit := rfl
@[simp] theorem State.reject_latCmd (s : State) : (s.reject).latCmd = s.latCmd := rfl
@[simp] theorem State.reject_latA (s : State) : (s.reject).latA = s.latA := rfl
@[simp] theorem State.reject_latB (s : State) : (s.reject).latB = s.latB := rfl
@[simp] theorem State.reject_sieve (s : State) : (s.reject).sieve = s.sieve := rfl
@[simp] theorem State.reject_inbox (s : State) : (s.reject).inbox = s.inbox := rfl
@[simp] theorem State.reject_reply (s : State) : (s.reject).reply = s.reply := rfl
@[simp] theorem State.reject_resets (s : State) : (s.reject).resets = s.resets := rfl

/-! ## A CTRL write (R33) -/

@[simp] theorem State.writeCtrl_cfg (v : Word) (s : State) : (s.writeCtrl v).cfg = s.cfg := rfl
@[simp] theorem State.writeCtrl_phase (v : Word) (s : State) : (s.writeCtrl v).phase = s.phase := rfl
@[simp] theorem State.writeCtrl_ie (v : Word) (s : State) : (s.writeCtrl v).ie = v.getLsbD 0 := rfl
@[simp] theorem State.writeCtrl_done (v : Word) (s : State) : (s.writeCtrl v).done = s.done := rfl
@[simp] theorem State.writeCtrl_overrun (v : Word) (s : State) : (s.writeCtrl v).overrun = s.overrun := rfl
@[simp] theorem State.writeCtrl_ctxValid (v : Word) (s : State) : (s.writeCtrl v).ctxValid = s.ctxValid := rfl
@[simp] theorem State.writeCtrl_err (v : Word) (s : State) : (s.writeCtrl v).err = s.err := rfl
@[simp] theorem State.writeCtrl_cmd (v : Word) (s : State) : (s.writeCtrl v).cmd = s.cmd := rfl
@[simp] theorem State.writeCtrl_opa (v : Word) (s : State) : (s.writeCtrl v).opa = s.opa := rfl
@[simp] theorem State.writeCtrl_opb (v : Word) (s : State) : (s.writeCtrl v).opb = s.opb := rfl
@[simp] theorem State.writeCtrl_res (v : Word) (s : State) : (s.writeCtrl v).res = s.res := rfl
@[simp] theorem State.writeCtrl_aux (v : Word) (s : State) : (s.writeCtrl v).aux = s.aux := rfl
@[simp] theorem State.writeCtrl_ctxN (v : Word) (s : State) : (s.writeCtrl v).ctxN = s.ctxN := rfl
@[simp] theorem State.writeCtrl_ctxNinv (v : Word) (s : State) : (s.writeCtrl v).ctxNinv = s.ctxNinv := rfl
@[simp] theorem State.writeCtrl_ctxR (v : Word) (s : State) : (s.writeCtrl v).ctxR = s.ctxR := rfl
@[simp] theorem State.writeCtrl_ctxR2 (v : Word) (s : State) : (s.writeCtrl v).ctxR2 = s.ctxR2 := rfl
@[simp] theorem State.writeCtrl_ctxW (v : Word) (s : State) : (s.writeCtrl v).ctxW = s.ctxW := rfl
@[simp] theorem State.writeCtrl_fit (v : Word) (s : State) : (s.writeCtrl v).fit = s.fit := rfl
@[simp] theorem State.writeCtrl_latCmd (v : Word) (s : State) : (s.writeCtrl v).latCmd = s.latCmd := rfl
@[simp] theorem State.writeCtrl_latA (v : Word) (s : State) : (s.writeCtrl v).latA = s.latA := rfl
@[simp] theorem State.writeCtrl_latB (v : Word) (s : State) : (s.writeCtrl v).latB = s.latB := rfl
@[simp] theorem State.writeCtrl_sieve (v : Word) (s : State) : (s.writeCtrl v).sieve = s.sieve := rfl
@[simp] theorem State.writeCtrl_inbox (v : Word) (s : State) : (s.writeCtrl v).inbox = s.inbox := rfl
@[simp] theorem State.writeCtrl_reply (v : Word) (s : State) : (s.writeCtrl v).reply = s.reply := rfl
@[simp] theorem State.writeCtrl_resets (v : Word) (s : State) : (s.writeCtrl v).resets = s.resets := rfl

/-! ## A STATUS write (R34) -/

@[simp] theorem State.writeStatus_cfg (v : Word) (s : State) : (s.writeStatus v).cfg = s.cfg := rfl
@[simp] theorem State.writeStatus_phase (v : Word) (s : State) : (s.writeStatus v).phase = s.phase := rfl
@[simp] theorem State.writeStatus_ie (v : Word) (s : State) : (s.writeStatus v).ie = s.ie := rfl
@[simp] theorem State.writeStatus_done (v : Word) (s : State) : (s.writeStatus v).done = (s.done && !v.getLsbD 1) := rfl
@[simp] theorem State.writeStatus_overrun (v : Word) (s : State) : (s.writeStatus v).overrun = (s.overrun && !v.getLsbD 2) := rfl
@[simp] theorem State.writeStatus_ctxValid (v : Word) (s : State) : (s.writeStatus v).ctxValid = s.ctxValid := rfl
@[simp] theorem State.writeStatus_err (v : Word) (s : State) : (s.writeStatus v).err = s.err := rfl
@[simp] theorem State.writeStatus_cmd (v : Word) (s : State) : (s.writeStatus v).cmd = s.cmd := rfl
@[simp] theorem State.writeStatus_opa (v : Word) (s : State) : (s.writeStatus v).opa = s.opa := rfl
@[simp] theorem State.writeStatus_opb (v : Word) (s : State) : (s.writeStatus v).opb = s.opb := rfl
@[simp] theorem State.writeStatus_res (v : Word) (s : State) : (s.writeStatus v).res = s.res := rfl
@[simp] theorem State.writeStatus_aux (v : Word) (s : State) : (s.writeStatus v).aux = s.aux := rfl
@[simp] theorem State.writeStatus_ctxN (v : Word) (s : State) : (s.writeStatus v).ctxN = s.ctxN := rfl
@[simp] theorem State.writeStatus_ctxNinv (v : Word) (s : State) : (s.writeStatus v).ctxNinv = s.ctxNinv := rfl
@[simp] theorem State.writeStatus_ctxR (v : Word) (s : State) : (s.writeStatus v).ctxR = s.ctxR := rfl
@[simp] theorem State.writeStatus_ctxR2 (v : Word) (s : State) : (s.writeStatus v).ctxR2 = s.ctxR2 := rfl
@[simp] theorem State.writeStatus_ctxW (v : Word) (s : State) : (s.writeStatus v).ctxW = s.ctxW := rfl
@[simp] theorem State.writeStatus_fit (v : Word) (s : State) : (s.writeStatus v).fit = s.fit := rfl
@[simp] theorem State.writeStatus_latCmd (v : Word) (s : State) : (s.writeStatus v).latCmd = s.latCmd := rfl
@[simp] theorem State.writeStatus_latA (v : Word) (s : State) : (s.writeStatus v).latA = s.latA := rfl
@[simp] theorem State.writeStatus_latB (v : Word) (s : State) : (s.writeStatus v).latB = s.latB := rfl
@[simp] theorem State.writeStatus_sieve (v : Word) (s : State) : (s.writeStatus v).sieve = s.sieve := rfl
@[simp] theorem State.writeStatus_inbox (v : Word) (s : State) : (s.writeStatus v).inbox = s.inbox := rfl
@[simp] theorem State.writeStatus_reply (v : Word) (s : State) : (s.writeStatus v).reply = s.reply := rfl
@[simp] theorem State.writeStatus_resets (v : Word) (s : State) : (s.writeStatus v).resets = s.resets := rfl

/-! ## Completion with an error (R222) -/

@[simp] theorem State.completeError_cfg (e : ErrCode) (s : State) : (s.completeError e).cfg = s.cfg := rfl
@[simp] theorem State.completeError_phase (e : ErrCode) (s : State) : (s.completeError e).phase = .idle := rfl
@[simp] theorem State.completeError_ie (e : ErrCode) (s : State) : (s.completeError e).ie = s.ie := rfl
@[simp] theorem State.completeError_done (e : ErrCode) (s : State) : (s.completeError e).done = true := rfl
@[simp] theorem State.completeError_overrun (e : ErrCode) (s : State) : (s.completeError e).overrun = s.overrun := rfl
@[simp] theorem State.completeError_ctxValid (e : ErrCode) (s : State) : (s.completeError e).ctxValid = s.ctxValid := rfl
@[simp] theorem State.completeError_err (e : ErrCode) (s : State) : (s.completeError e).err = e.code := rfl
@[simp] theorem State.completeError_cmd (e : ErrCode) (s : State) : (s.completeError e).cmd = s.cmd := rfl
@[simp] theorem State.completeError_opa (e : ErrCode) (s : State) : (s.completeError e).opa = s.opa := rfl
@[simp] theorem State.completeError_opb (e : ErrCode) (s : State) : (s.completeError e).opb = s.opb := rfl
@[simp] theorem State.completeError_res (e : ErrCode) (s : State) : (s.completeError e).res = s.res := rfl
@[simp] theorem State.completeError_aux (e : ErrCode) (s : State) : (s.completeError e).aux = s.aux := rfl
@[simp] theorem State.completeError_ctxN (e : ErrCode) (s : State) : (s.completeError e).ctxN = s.ctxN := rfl
@[simp] theorem State.completeError_ctxNinv (e : ErrCode) (s : State) : (s.completeError e).ctxNinv = s.ctxNinv := rfl
@[simp] theorem State.completeError_ctxR (e : ErrCode) (s : State) : (s.completeError e).ctxR = s.ctxR := rfl
@[simp] theorem State.completeError_ctxR2 (e : ErrCode) (s : State) : (s.completeError e).ctxR2 = s.ctxR2 := rfl
@[simp] theorem State.completeError_ctxW (e : ErrCode) (s : State) : (s.completeError e).ctxW = s.ctxW := rfl
@[simp] theorem State.completeError_fit (e : ErrCode) (s : State) : (s.completeError e).fit = s.fit := rfl
@[simp] theorem State.completeError_latCmd (e : ErrCode) (s : State) : (s.completeError e).latCmd = s.latCmd := rfl
@[simp] theorem State.completeError_latA (e : ErrCode) (s : State) : (s.completeError e).latA = s.latA := rfl
@[simp] theorem State.completeError_latB (e : ErrCode) (s : State) : (s.completeError e).latB = s.latB := rfl
@[simp] theorem State.completeError_sieve (e : ErrCode) (s : State) : (s.completeError e).sieve = s.sieve := rfl
@[simp] theorem State.completeError_inbox (e : ErrCode) (s : State) : (s.completeError e).inbox = s.inbox := rfl
@[simp] theorem State.completeError_reply (e : ErrCode) (s : State) : (s.completeError e).reply = s.reply := rfl
@[simp] theorem State.completeError_resets (e : ErrCode) (s : State) : (s.completeError e).resets = s.resets := rfl

/-! ## `upd` of a completion (R117) -/

@[simp] theorem State.applyUpdate_cfg (u : Update) (s : State) : (s.applyUpdate u).cfg = s.cfg := by cases u <;> rfl
@[simp] theorem State.applyUpdate_phase (u : Update) (s : State) : (s.applyUpdate u).phase = s.phase := by cases u <;> rfl
@[simp] theorem State.applyUpdate_ie (u : Update) (s : State) : (s.applyUpdate u).ie = s.ie := by cases u <;> rfl
@[simp] theorem State.applyUpdate_done (u : Update) (s : State) : (s.applyUpdate u).done = s.done := by cases u <;> rfl
@[simp] theorem State.applyUpdate_overrun (u : Update) (s : State) : (s.applyUpdate u).overrun = s.overrun := by cases u <;> rfl
@[simp] theorem State.applyUpdate_err (u : Update) (s : State) : (s.applyUpdate u).err = s.err := by cases u <;> rfl
@[simp] theorem State.applyUpdate_cmd (u : Update) (s : State) : (s.applyUpdate u).cmd = s.cmd := by cases u <;> rfl
@[simp] theorem State.applyUpdate_opa (u : Update) (s : State) : (s.applyUpdate u).opa = s.opa := by cases u <;> rfl
@[simp] theorem State.applyUpdate_opb (u : Update) (s : State) : (s.applyUpdate u).opb = s.opb := by cases u <;> rfl
@[simp] theorem State.applyUpdate_res (u : Update) (s : State) : (s.applyUpdate u).res = s.res := by cases u <;> rfl
@[simp] theorem State.applyUpdate_aux (u : Update) (s : State) : (s.applyUpdate u).aux = s.aux := by cases u <;> rfl
@[simp] theorem State.applyUpdate_latCmd (u : Update) (s : State) : (s.applyUpdate u).latCmd = s.latCmd := by cases u <;> rfl
@[simp] theorem State.applyUpdate_latA (u : Update) (s : State) : (s.applyUpdate u).latA = s.latA := by cases u <;> rfl
@[simp] theorem State.applyUpdate_latB (u : Update) (s : State) : (s.applyUpdate u).latB = s.latB := by cases u <;> rfl
@[simp] theorem State.applyUpdate_sieve (u : Update) (s : State) : (s.applyUpdate u).sieve = s.sieve := by cases u <;> rfl
@[simp] theorem State.applyUpdate_inbox (u : Update) (s : State) : (s.applyUpdate u).inbox = s.inbox := by cases u <;> rfl
@[simp] theorem State.applyUpdate_reply (u : Update) (s : State) : (s.applyUpdate u).reply = s.reply := by cases u <;> rfl
@[simp] theorem State.applyUpdate_resets (u : Update) (s : State) : (s.applyUpdate u).resets = s.resets := by cases u <;> rfl

/-! ## Completion with a result (R117) -/

@[simp] theorem State.completeOk_cfg (res aux : Word) (u : Update) (s : State) : (s.completeOk res aux u).cfg = s.cfg := by cases u <;> rfl
@[simp] theorem State.completeOk_phase (res aux : Word) (u : Update) (s : State) : (s.completeOk res aux u).phase = .idle := by cases u <;> rfl
@[simp] theorem State.completeOk_ie (res aux : Word) (u : Update) (s : State) : (s.completeOk res aux u).ie = s.ie := by cases u <;> rfl
@[simp] theorem State.completeOk_done (res aux : Word) (u : Update) (s : State) : (s.completeOk res aux u).done = true := by cases u <;> rfl
@[simp] theorem State.completeOk_overrun (res aux : Word) (u : Update) (s : State) : (s.completeOk res aux u).overrun = s.overrun := by cases u <;> rfl
@[simp] theorem State.completeOk_err (res aux : Word) (u : Update) (s : State) : (s.completeOk res aux u).err = 0#4 := by cases u <;> rfl
@[simp] theorem State.completeOk_cmd (res aux : Word) (u : Update) (s : State) : (s.completeOk res aux u).cmd = s.cmd := by cases u <;> rfl
@[simp] theorem State.completeOk_opa (res aux : Word) (u : Update) (s : State) : (s.completeOk res aux u).opa = s.opa := by cases u <;> rfl
@[simp] theorem State.completeOk_opb (res aux : Word) (u : Update) (s : State) : (s.completeOk res aux u).opb = s.opb := by cases u <;> rfl
@[simp] theorem State.completeOk_res (res aux : Word) (u : Update) (s : State) : (s.completeOk res aux u).res = res := by cases u <;> rfl
@[simp] theorem State.completeOk_aux (res aux : Word) (u : Update) (s : State) : (s.completeOk res aux u).aux = aux := by cases u <;> rfl
@[simp] theorem State.completeOk_latCmd (res aux : Word) (u : Update) (s : State) : (s.completeOk res aux u).latCmd = s.latCmd := by cases u <;> rfl
@[simp] theorem State.completeOk_latA (res aux : Word) (u : Update) (s : State) : (s.completeOk res aux u).latA = s.latA := by cases u <;> rfl
@[simp] theorem State.completeOk_latB (res aux : Word) (u : Update) (s : State) : (s.completeOk res aux u).latB = s.latB := by cases u <;> rfl
@[simp] theorem State.completeOk_sieve (res aux : Word) (u : Update) (s : State) : (s.completeOk res aux u).sieve = s.sieve := by cases u <;> rfl
@[simp] theorem State.completeOk_inbox (res aux : Word) (u : Update) (s : State) : (s.completeOk res aux u).inbox = s.inbox := by cases u <;> rfl
@[simp] theorem State.completeOk_reply (res aux : Word) (u : Update) (s : State) : (s.completeOk res aux u).reply = s.reply := by cases u <;> rfl
@[simp] theorem State.completeOk_resets (res aux : Word) (u : Update) (s : State) : (s.completeOk res aux u).resets = s.resets := by cases u <;> rfl

/-! ## End of INIT (R251) -/

@[simp] theorem State.initDone_cfg (s : State) : (s.initDone).cfg = s.cfg := by
  unfold State.initDone; split <;> rfl
@[simp] theorem State.initDone_phase (s : State) : (s.initDone).phase = .idle := by
  unfold State.initDone; split <;> rfl
@[simp] theorem State.initDone_ie (s : State) : (s.initDone).ie = s.ie := by
  unfold State.initDone; split <;> rfl
@[simp] theorem State.initDone_done (s : State) : (s.initDone).done = s.done := by
  unfold State.initDone; split <;> rfl
@[simp] theorem State.initDone_overrun (s : State) : (s.initDone).overrun = s.overrun := by
  unfold State.initDone; split <;> rfl
@[simp] theorem State.initDone_ctxValid (s : State) : (s.initDone).ctxValid = s.ctxValid := by
  unfold State.initDone; split <;> rfl
@[simp] theorem State.initDone_err (s : State) : (s.initDone).err = s.err := by
  unfold State.initDone; split <;> rfl
@[simp] theorem State.initDone_cmd (s : State) : (s.initDone).cmd = s.cmd := by
  unfold State.initDone; split <;> rfl
@[simp] theorem State.initDone_opa (s : State) : (s.initDone).opa = s.opa := by
  unfold State.initDone; split <;> rfl
@[simp] theorem State.initDone_opb (s : State) : (s.initDone).opb = s.opb := by
  unfold State.initDone; split <;> rfl
@[simp] theorem State.initDone_res (s : State) : (s.initDone).res = s.res := by
  unfold State.initDone; split <;> rfl
@[simp] theorem State.initDone_aux (s : State) : (s.initDone).aux = s.aux := by
  unfold State.initDone; split <;> rfl
@[simp] theorem State.initDone_ctxN (s : State) : (s.initDone).ctxN = s.ctxN := by
  unfold State.initDone; split <;> rfl
@[simp] theorem State.initDone_ctxNinv (s : State) : (s.initDone).ctxNinv = s.ctxNinv := by
  unfold State.initDone; split <;> rfl
@[simp] theorem State.initDone_ctxR (s : State) : (s.initDone).ctxR = s.ctxR := by
  unfold State.initDone; split <;> rfl
@[simp] theorem State.initDone_ctxR2 (s : State) : (s.initDone).ctxR2 = s.ctxR2 := by
  unfold State.initDone; split <;> rfl
@[simp] theorem State.initDone_ctxW (s : State) : (s.initDone).ctxW = s.ctxW := by
  unfold State.initDone; split <;> rfl
@[simp] theorem State.initDone_fit (s : State) : (s.initDone).fit = s.fit := by
  unfold State.initDone; split <;> rfl
@[simp] theorem State.initDone_latCmd (s : State) : (s.initDone).latCmd = s.latCmd := by
  unfold State.initDone; split <;> rfl
@[simp] theorem State.initDone_latA (s : State) : (s.initDone).latA = s.latA := by
  unfold State.initDone; split <;> rfl
@[simp] theorem State.initDone_latB (s : State) : (s.initDone).latB = s.latB := by
  unfold State.initDone; split <;> rfl
@[simp] theorem State.initDone_inbox (s : State) : (s.initDone).inbox = s.inbox := by
  unfold State.initDone; split <;> rfl
@[simp] theorem State.initDone_reply (s : State) : (s.initDone).reply = s.reply := by
  unfold State.initDone; split <;> rfl
@[simp] theorem State.initDone_resets (s : State) : (s.initDone).resets = s.resets := by
  unfold State.initDone; split <;> rfl

/-! ## The shape of a successful completion -/

@[simp] theorem State.withResult_cfg (res aux : Word) (s : State) : (s.withResult res aux).cfg = s.cfg := rfl
@[simp] theorem State.withResult_phase (res aux : Word) (s : State) : (s.withResult res aux).phase = .idle := rfl
@[simp] theorem State.withResult_ie (res aux : Word) (s : State) : (s.withResult res aux).ie = s.ie := rfl
@[simp] theorem State.withResult_done (res aux : Word) (s : State) : (s.withResult res aux).done = true := rfl
@[simp] theorem State.withResult_overrun (res aux : Word) (s : State) : (s.withResult res aux).overrun = s.overrun := rfl
@[simp] theorem State.withResult_ctxValid (res aux : Word) (s : State) : (s.withResult res aux).ctxValid = s.ctxValid := rfl
@[simp] theorem State.withResult_err (res aux : Word) (s : State) : (s.withResult res aux).err = 0#4 := rfl
@[simp] theorem State.withResult_cmd (res aux : Word) (s : State) : (s.withResult res aux).cmd = s.cmd := rfl
@[simp] theorem State.withResult_opa (res aux : Word) (s : State) : (s.withResult res aux).opa = s.opa := rfl
@[simp] theorem State.withResult_opb (res aux : Word) (s : State) : (s.withResult res aux).opb = s.opb := rfl
@[simp] theorem State.withResult_res (res aux : Word) (s : State) : (s.withResult res aux).res = res := rfl
@[simp] theorem State.withResult_aux (res aux : Word) (s : State) : (s.withResult res aux).aux = aux := rfl
@[simp] theorem State.withResult_ctxN (res aux : Word) (s : State) : (s.withResult res aux).ctxN = s.ctxN := rfl
@[simp] theorem State.withResult_ctxNinv (res aux : Word) (s : State) : (s.withResult res aux).ctxNinv = s.ctxNinv := rfl
@[simp] theorem State.withResult_ctxR (res aux : Word) (s : State) : (s.withResult res aux).ctxR = s.ctxR := rfl
@[simp] theorem State.withResult_ctxR2 (res aux : Word) (s : State) : (s.withResult res aux).ctxR2 = s.ctxR2 := rfl
@[simp] theorem State.withResult_ctxW (res aux : Word) (s : State) : (s.withResult res aux).ctxW = s.ctxW := rfl
@[simp] theorem State.withResult_fit (res aux : Word) (s : State) : (s.withResult res aux).fit = s.fit := rfl
@[simp] theorem State.withResult_latCmd (res aux : Word) (s : State) : (s.withResult res aux).latCmd = s.latCmd := rfl
@[simp] theorem State.withResult_latA (res aux : Word) (s : State) : (s.withResult res aux).latA = s.latA := rfl
@[simp] theorem State.withResult_latB (res aux : Word) (s : State) : (s.withResult res aux).latB = s.latB := rfl
@[simp] theorem State.withResult_sieve (res aux : Word) (s : State) : (s.withResult res aux).sieve = s.sieve := rfl
@[simp] theorem State.withResult_inbox (res aux : Word) (s : State) : (s.withResult res aux).inbox = s.inbox := rfl
@[simp] theorem State.withResult_reply (res aux : Word) (s : State) : (s.withResult res aux).reply = s.reply := rfl
@[simp] theorem State.withResult_resets (res aux : Word) (s : State) : (s.withResult res aux).resets = s.resets := rfl

/-! ## The shape of a failed completion -/

@[simp] theorem State.withError_cfg (code : BitVec 4) (s : State) : (s.withError code).cfg = s.cfg := rfl
@[simp] theorem State.withError_phase (code : BitVec 4) (s : State) : (s.withError code).phase = .idle := rfl
@[simp] theorem State.withError_ie (code : BitVec 4) (s : State) : (s.withError code).ie = s.ie := rfl
@[simp] theorem State.withError_done (code : BitVec 4) (s : State) : (s.withError code).done = true := rfl
@[simp] theorem State.withError_overrun (code : BitVec 4) (s : State) : (s.withError code).overrun = s.overrun := rfl
@[simp] theorem State.withError_ctxValid (code : BitVec 4) (s : State) : (s.withError code).ctxValid = s.ctxValid := rfl
@[simp] theorem State.withError_err (code : BitVec 4) (s : State) : (s.withError code).err = code := rfl
@[simp] theorem State.withError_cmd (code : BitVec 4) (s : State) : (s.withError code).cmd = s.cmd := rfl
@[simp] theorem State.withError_opa (code : BitVec 4) (s : State) : (s.withError code).opa = s.opa := rfl
@[simp] theorem State.withError_opb (code : BitVec 4) (s : State) : (s.withError code).opb = s.opb := rfl
@[simp] theorem State.withError_res (code : BitVec 4) (s : State) : (s.withError code).res = s.res := rfl
@[simp] theorem State.withError_aux (code : BitVec 4) (s : State) : (s.withError code).aux = s.aux := rfl
@[simp] theorem State.withError_ctxN (code : BitVec 4) (s : State) : (s.withError code).ctxN = s.ctxN := rfl
@[simp] theorem State.withError_ctxNinv (code : BitVec 4) (s : State) : (s.withError code).ctxNinv = s.ctxNinv := rfl
@[simp] theorem State.withError_ctxR (code : BitVec 4) (s : State) : (s.withError code).ctxR = s.ctxR := rfl
@[simp] theorem State.withError_ctxR2 (code : BitVec 4) (s : State) : (s.withError code).ctxR2 = s.ctxR2 := rfl
@[simp] theorem State.withError_ctxW (code : BitVec 4) (s : State) : (s.withError code).ctxW = s.ctxW := rfl
@[simp] theorem State.withError_fit (code : BitVec 4) (s : State) : (s.withError code).fit = s.fit := rfl
@[simp] theorem State.withError_latCmd (code : BitVec 4) (s : State) : (s.withError code).latCmd = s.latCmd := rfl
@[simp] theorem State.withError_latA (code : BitVec 4) (s : State) : (s.withError code).latA = s.latA := rfl
@[simp] theorem State.withError_latB (code : BitVec 4) (s : State) : (s.withError code).latB = s.latB := rfl
@[simp] theorem State.withError_sieve (code : BitVec 4) (s : State) : (s.withError code).sieve = s.sieve := rfl
@[simp] theorem State.withError_inbox (code : BitVec 4) (s : State) : (s.withError code).inbox = s.inbox := rfl
@[simp] theorem State.withError_reply (code : BitVec 4) (s : State) : (s.withError code).reply = s.reply := rfl
@[simp] theorem State.withError_resets (code : BitVec 4) (s : State) : (s.withError code).resets = s.resets := rfl

end Sys2Proof.Machine
end

