-- ==== Sys2Proof/Laws/Ops.lean ====
section
/-! SUPPORT. What each shared operation can do, said once: the checks, completion, host steps, `exec`, counted work, and
one step. -/

namespace Sys2Proof.Machine

/-! ## Checks and completion -/

/-- A checked command either fails with the first failing check or answers its own rule. -/
theorem State.checked_cases (i : Instr) (s : State) (rule : Result) :
    (∃ e, s.failedCheck i = some e ∧ s.checked i rule = .error e) ∨
      (s.failedCheck i = none ∧ s.checked i rule = rule) := by
  unfold State.checked
  cases h : s.failedCheck i with
  | none => exact .inr ⟨rfl, rfl⟩
  | some e => exact .inl ⟨e, rfl, rfl⟩

/-- A command whose common checks all pass answers its own rule. -/
theorem State.checked_of_none (i : Instr) (s : State) (rule : Result) (h : s.failedCheck i = none) :
    s.checked i rule = rule := by simp [State.checked, h]

/-- A command with a failing check completes with that check's error. -/
theorem State.checked_of_some (i : Instr) (s : State) (rule : Result) (e : ErrCode) (h : s.failedCheck i = some e) :
    s.checked i rule = .error e := by simp [State.checked, h]

/-- No common check fails exactly when the context is there at the command's width, if one is needed, and the checked
operands are in range (40_command_cycle.md R115, R116). -/
theorem State.failedCheck_eq_none (i : Instr) (s : State) :
    s.failedCheck i = none ↔
      ((operandRow i).needsContext = true → s.HasContext i.width) ∧
      ((operandRow i).checksA = true → s.latA.toNat < 2 ^ i.width.bits) ∧
      ((operandRow i).checksB = true → s.latB.toNat < 2 ^ i.width.bits) := by
  unfold State.failedCheck State.HasContext
  generalize operandRow i = row
  obtain ⟨c, a, b⟩ := row
  have hw : s.ctxW.toNat = i.width.bits ↔ i.width.bits = s.ctxW.toNat := eq_comm
  cases c <;> cases a <;> cases b <;> cases s.ctxValid <;> simp [hw] <;> (try split_ifs) <;> simp_all

/-- A failing common check has one of the codes 2, 3, 4 (40_command_cycle.md R115, R116). -/
theorem State.failedCheck_code (i : Instr) (s : State) (e : ErrCode) (h : s.failedCheck i = some e) :
    e = .noContext ∨ e = .widthMismatch ∨ e = .operandRange := by
  unfold State.failedCheck at h
  dsimp only at h
  split_ifs at h <;> simp_all

@[simp] theorem State.complete_ok (res aux : Word) (u : Update) (s : State) :
    s.complete (.ok res aux u) = s.completeOk res aux u := rfl

@[simp] theorem State.complete_error (e : ErrCode) (s : State) : s.complete (.error e) = s.completeError e := rfl

/-- Success with no other update is the plain result shape. -/
@[simp] theorem State.completeOk_nothing (res aux : Word) (s : State) :
    s.completeOk res aux .nothing = s.withResult res aux := rfl

/-- Success that also writes FIT. -/
@[simp] theorem State.completeOk_fit (res aux v : Word) (s : State) :
    s.completeOk res aux (.fit v) = { s.withResult res aux with fit := v } := rfl

/-- Success that also writes the context. -/
@[simp] theorem State.completeOk_context (res aux : Word) (c : Ctx) (s : State) :
    s.completeOk res aux (.context c) = { s.withResult res aux with
      ctxN := zext64 c.n, ctxNinv := zext64 c.ninv, ctxR := zext64 c.r, ctxR2 := zext64 c.r2,
      ctxW := BitVec.ofNat 7 c.w, ctxValid := true } := rfl

/-- An error is the plain error shape. -/
@[simp] theorem State.completeError_eq (e : ErrCode) (s : State) : s.completeError e = s.withError e.code := rfl

/-! ## Register and host operations -/

/-- Everything a register write can do. -/
theorem State.writeReg_cases (r : Reg) (v : Word) (s : State) :
    (r = .ctrl ∧ s.writeReg r v = s.writeCtrl v) ∨ (r = .status ∧ s.writeReg r v = s.writeStatus v) ∨
    (r = .cmd ∧ s.phase = .idle ∧ s.writeReg r v = s.accept v) ∨
    (r = .cmd ∧ s.phase ≠ .idle ∧ s.writeReg r v = s.reject) ∨
    (r = .opa ∧ s.writeReg r v = { s with opa := v }) ∨ (r = .opb ∧ s.writeReg r v = { s with opb := v }) ∨
    s.writeReg r v = s := by
  cases r <;> simp [State.writeReg, State.writeCmd]
  cases s.phase <;> simp

/-- Everything a host step that answers a next state can do. -/
theorem State.hostStep_cases (t : Txn) (s s' : State) (h : s.hostStep t = .next s') :
    ∃ r, selectedReg t = some r ∧
      ((∃ n o, t = .read n o ∧ s' = { s with reply := .data (s.readReg r) }) ∨
       (∃ n o v, t = .write n o v ∧ s' = { s.writeReg r v with reply := .ack })) := by
  unfold State.hostStep at h
  cases hr : selectedReg t with
  | none => simp [hr] at h
  | some r =>
    refine ⟨r, rfl, ?_⟩
    cases t with
    | read n o => simp [hr] at h; exact .inl ⟨n, o, rfl, h.symm⟩
    | write n o v => simp [hr] at h; exact .inr ⟨n, o, v, rfl, h.symm⟩

/-- A host step never faults. -/
theorem State.hostStep_ne_fault (t : Txn) (s : State) (f : Fault) : s.hostStep t ≠ .fault f := by
  unfold State.hostStep
  split
  · simp
  · cases t <;> simp

/-! ## The meanings -/

/-- Everything a command can do when it answers a next state: fail with an error code, or succeed; only MONT_SETUP writes
the context, only FACTOR_START and FACTOR_NEXT write FIT. -/
theorem exec_cases (i : Instr) (s t : State) (h : exec i s = .next t) :
    (∃ e, t = s.completeError e) ∨ (∃ res aux, t = s.withResult res aux) ∨
    (∃ w, i = .montSetup w ∧ s.failedCheck i = none ∧ s.latA.toNat % 2 = 1 ∧
      t = s.completeOk 0#64 0#64 (.context (mkCtx s.latA.toNat w.bits))) ∨
    (∃ w, i = .factorStart w ∧ s.failedCheck i = none ∧ s.latA.toNat < s.len ∧
      t = s.completeOk 0#64 (boolWord (decide (s.latA.toNat < 2))) (.fit s.latA)) ∨
    (∃ w, i = .factorNext w ∧ 2 ≤ s.fit.toNat ∧ s.fit.toNat < s.len ∧
      t = s.completeOk (s.sieve.get s.fit.toNat) 0#64 (.fit (s.fit / s.sieve.get s.fit.toNat))) := by
  cases i with
  | montSetup w =>
    simp only [exec, execMontSetup, Host.Outcome.next.injEq] at h
    obtain ⟨e, _, hc⟩ | ⟨hn, hc⟩ := s.checked_cases (.montSetup w) (montSetupRule w s)
    · exact .inl ⟨e, by rw [← h, hc]; rfl⟩
    · rw [hc, montSetupRule] at h
      split_ifs at h with hodd
      · exact .inl ⟨_, h.symm⟩
      · exact .inr (.inr (.inl ⟨w, rfl, hn, by omega, h.symm⟩))
  | factorStart w =>
    simp only [exec, execFactorStart, Host.Outcome.next.injEq] at h
    obtain ⟨e, _, hc⟩ | ⟨hn, hc⟩ := s.checked_cases (.factorStart w) (factorStartRule s)
    · exact .inl ⟨e, by rw [← h, hc]; rfl⟩
    · rw [hc, factorStartRule] at h
      split_ifs at h with hlt
      · exact .inr (.inr (.inr (.inl ⟨w, rfl, hn, hlt, h.symm⟩)))
      · exact .inl ⟨_, h.symm⟩
  | factorNext w =>
    have hn : s.failedCheck (.factorNext w) = none := by simp [State.failedCheck_eq_none, operandRow]
    simp only [exec, execFactorNext, State.sieveEntry, s.checked_of_none _ _ hn] at h
    split_ifs at h with h1 h2
    · simp only [Host.Outcome.next.injEq] at h; exact .inr (.inl ⟨_, _, h.symm⟩)
    simp only [Host.Outcome.next.injEq] at h
    exact .inr (.inr (.inr (.inr ⟨w, rfl, by omega, h2, h.symm⟩)))
  | montConvert w =>
    simp only [exec, execMontConvert, Host.Outcome.next.injEq] at h
    obtain ⟨e, _, hc⟩ | ⟨_, hc⟩ := s.checked_cases (.montConvert w) _
    · exact .inl ⟨e, by rw [← h, hc]; rfl⟩
    · exact .inr (.inl ⟨_, _, by rw [← h, hc]; rfl⟩)
  | montMul w =>
    simp only [exec, execMontMul, Host.Outcome.next.injEq] at h
    obtain ⟨e, _, hc⟩ | ⟨_, hc⟩ := s.checked_cases (.montMul w) _
    · exact .inl ⟨e, by rw [← h, hc]; rfl⟩
    · exact .inr (.inl ⟨_, _, by rw [← h, hc]; rfl⟩)
  | montPow w =>
    simp only [exec, execMontPow, Host.Outcome.next.injEq] at h
    obtain ⟨e, _, hc⟩ | ⟨_, hc⟩ := s.checked_cases (.montPow w) _
    · exact .inl ⟨e, by rw [← h, hc]; rfl⟩
    · exact .inr (.inl ⟨_, _, by rw [← h, hc]; rfl⟩)
  | mrRound w =>
    simp only [exec, execMrRound, Host.Outcome.next.injEq] at h
    obtain ⟨e, _, hc⟩ | ⟨_, hc⟩ := s.checked_cases (.mrRound w) (mrRoundRule w s)
    · exact .inl ⟨e, by rw [← h, hc]; rfl⟩
    · exact .inr (.inl ⟨_, _, by rw [← h, hc]; rfl⟩)
  | mrTest w =>
    simp only [exec, execMrTest, Host.Outcome.next.injEq] at h
    obtain ⟨e, _, hc⟩ | ⟨_, hc⟩ := s.checked_cases (.mrTest w) (mrTestRule w s)
    · exact .inl ⟨e, by rw [← h, hc]; rfl⟩
    · exact .inr (.inl ⟨_, _, by rw [← h, hc]; rfl⟩)
  | sieveIsPrime w =>
    simp only [exec, execSieveIsPrime, Host.Outcome.next.injEq] at h
    obtain ⟨e, _, hc⟩ | ⟨_, hc⟩ := s.checked_cases (.sieveIsPrime w) (sieveIsPrimeRule s)
    · exact .inl ⟨e, by rw [← h, hc]; rfl⟩
    · rw [hc, sieveIsPrimeRule] at h
      split_ifs at h
      · exact .inr (.inl ⟨_, _, h.symm⟩)
      · exact .inl ⟨_, h.symm⟩
  | sieveLpf w =>
    simp only [exec, execSieveLpf, Host.Outcome.next.injEq] at h
    obtain ⟨e, _, hc⟩ | ⟨_, hc⟩ := s.checked_cases (.sieveLpf w) (sieveLpfRule s)
    · exact .inl ⟨e, by rw [← h, hc]; rfl⟩
    · rw [hc, sieveLpfRule] at h
      split at h
      · exact .inr (.inl ⟨_, _, h.symm⟩)
      · exact .inl ⟨_, h.symm⟩
  | primeNext w =>
    simp only [exec, execPrimeNext, Host.Outcome.next.injEq] at h
    obtain ⟨e, _, hc⟩ | ⟨_, hc⟩ := s.checked_cases (.primeNext w) (primeNextRule s)
    · exact .inl ⟨e, by rw [← h, hc]; rfl⟩
    · rw [hc, primeNextRule] at h
      split at h <;> exact .inr (.inl ⟨_, _, h.symm⟩)

/-- The law of R197 from its named assumption, given what MR_TEST does at a width whose witness sets are sufficient. -/
theorem mrTestIsExact_of_sufficient (h : WitnessSetsAreSufficient)
    (at_width : ∀ w : Width, WitnessSetSuffices w → (w = .w64 → WitnessSetSuffices .w32) → MrTestIsExactAt w) :
    MrTestIsExact := fun w => at_width w (h w) fun _ => h .w32

/-! ## Counted work -/

@[simp] theorem Counted.free_value {α : Type} (v : α) : (Counted.free v).value = v := rfl
@[simp] theorem Counted.free_work {α : Type} (v : α) : (Counted.free v).work = ⟨0, 0⟩ := rfl
@[simp] theorem Counted.map_value {α β : Type} (f : α → β) (x : Counted α) : (x.map f).value = f x.value := rfl
@[simp] theorem Counted.map_work {α β : Type} (f : α → β) (x : Counted α) : (x.map f).work = x.work := rfl
@[simp] theorem Counted.andThen_value {α β : Type} (x : Counted α) (f : α → Counted β) :
    (x.andThen f).value = (f x.value).value := rfl
@[simp] theorem Counted.andThen_work {α β : Type} (x : Counted α) (f : α → Counted β) :
    (x.andThen f).work = x.work.add (f x.value).work := rfl
@[simp] theorem Work.add_muls (x y : Work) : (x.add y).muls = x.muls + y.muls := rfl
@[simp] theorem Work.add_reads (x y : Work) : (x.add y).reads = x.reads + y.reads := rfl
@[simp] theorem mulCounted_value (c : Ctx) (a b : Nat) : (mulCounted c a b).value = montMul c a b := rfl
@[simp] theorem mulCounted_work (c : Ctx) (a b : Nat) : (mulCounted c a b).work = ⟨1, 0⟩ := rfl
@[simp] theorem readCounted_value (s : State) (i : Nat) : (readCounted s i).value = s.sieve.get i := rfl
@[simp] theorem readCounted_work (s : State) (i : Nat) : (readCounted s i).work = ⟨0, 1⟩ := rfl

/-- A counted completion does the work of the command's rule when every common check passes, and none otherwise. -/
theorem completeCounted_work (i : Instr) (s : State) (rule : Counted Result) :
    (completeCounted i s rule).work = if s.failedCheck i = none then rule.work else ⟨0, 0⟩ := by
  unfold completeCounted
  cases s.failedCheck i <;> simp

/-- A counted completion answers what the checked completion of the command's rule answers. -/
theorem completeCounted_value (i : Instr) (s : State) (rule : Counted Result) :
    (completeCounted i s rule).value = .next (s.complete (s.checked i rule.value)) := by
  unfold completeCounted State.checked
  cases s.failedCheck i <;> simp

/-! ## Steps -/

/-- Everything a turn of the core that answers a next state can do. -/
theorem State.coreStep_cases (s t : State) (h : s.coreStep = .next t) :
    (s.phase = .init ∧ t = s.initDone) ∨ (s.phase = .idle ∧ t = s) ∨
    (s.phase = .exec ∧ ∃ i, decode s.latCmd = .ok i ∧ exec i s = .next t) ∨
    (s.phase = .exec ∧ (∃ e, decode s.latCmd = .error e) ∧ t = s.completeError .illegalCmd) := by
  unfold State.coreStep at h
  cases hp : s.phase with
  | init => simp [hp] at h; exact .inl ⟨rfl, h.symm⟩
  | idle => simp [hp] at h; exact .inr (.inl ⟨rfl, h.symm⟩)
  | exec =>
    simp only [hp, State.runLatched] at h
    cases hd : decode s.latCmd with
    | ok i => simp only [hd] at h; exact .inr (.inr (.inl ⟨rfl, i, rfl, h⟩))
    | error e =>
      simp only [hd, Host.Outcome.next.injEq] at h
      exact .inr (.inr (.inr ⟨rfl, ⟨e, rfl⟩, h.symm⟩))

/-- Everything a step that answers a next state can do. -/
theorem step_cases (s t : State) (h : step s = .next t) :
    (s.inbox = [] ∧ s.coreStep = .next t) ∨
    (∃ rest, s.inbox = .core :: rest ∧ State.coreStep { s with inbox := rest } = .next t) ∨
    (∃ rest, s.inbox = .reset :: rest ∧ t = State.resetAgain { s with inbox := rest }) ∨
    (∃ txn rest, s.inbox = .host txn :: rest ∧ State.hostStep txn { s with inbox := rest } = .next t) := by
  unfold step at h
  cases hi : s.inbox with
  | nil => simp only [hi] at h; exact .inl ⟨rfl, h⟩
  | cons e rest =>
    simp only [hi] at h
    cases e with
    | core => exact .inr (.inl ⟨rest, rfl, h⟩)
    | reset => simp only [State.onEvent, Host.Outcome.next.injEq] at h; exact .inr (.inr (.inl ⟨rest, rfl, h.symm⟩))
    | host txn => exact .inr (.inr (.inr ⟨txn, rest, rfl, h⟩))

end Sys2Proof.Machine
end

