-- ==== Sys2Proof/Laws/PerInstr.lean ====
section
/-! SUPPORT. Facts that hold of every command, one lemma per constructor. -/

namespace Sys2Proof.Laws

/-- The three fields of a command's word are its opcode, its width and zero (30_encoding.md R91). -/
def EncodingFields.Statement (i : Instr) : Prop :=
  opField (encode i) = i.opcode ∧ Width.ofWid (widField (encode i)) = i.width ∧ rsvField (encode i) = 0#54

theorem EncodingFields.montSetup (w : Width) : EncodingFields.Statement (.montSetup w) := by
  cases w <;> exact ⟨rfl, rfl, rfl⟩

theorem EncodingFields.montConvert (w : Width) : EncodingFields.Statement (.montConvert w) := by
  cases w <;> exact ⟨rfl, rfl, rfl⟩

theorem EncodingFields.montMul (w : Width) : EncodingFields.Statement (.montMul w) := by
  cases w <;> exact ⟨rfl, rfl, rfl⟩

theorem EncodingFields.montPow (w : Width) : EncodingFields.Statement (.montPow w) := by
  cases w <;> exact ⟨rfl, rfl, rfl⟩

theorem EncodingFields.sieveIsPrime (w : Width) : EncodingFields.Statement (.sieveIsPrime w) := by
  cases w <;> exact ⟨rfl, rfl, rfl⟩

theorem EncodingFields.sieveLpf (w : Width) : EncodingFields.Statement (.sieveLpf w) := by
  cases w <;> exact ⟨rfl, rfl, rfl⟩

theorem EncodingFields.factorStart (w : Width) : EncodingFields.Statement (.factorStart w) := by
  cases w <;> exact ⟨rfl, rfl, rfl⟩

theorem EncodingFields.factorNext (w : Width) : EncodingFields.Statement (.factorNext w) := by
  cases w <;> exact ⟨rfl, rfl, rfl⟩

theorem EncodingFields.primeNext (w : Width) : EncodingFields.Statement (.primeNext w) := by
  cases w <;> exact ⟨rfl, rfl, rfl⟩

theorem EncodingFields.mrRound (w : Width) : EncodingFields.Statement (.mrRound w) := by
  cases w <;> exact ⟨rfl, rfl, rfl⟩

theorem EncodingFields.mrTest (w : Width) : EncodingFields.Statement (.mrTest w) := by
  cases w <;> exact ⟨rfl, rfl, rfl⟩

end Sys2Proof.Laws
end

