-- ==== Sys2Proof/Laws/Table.lean ====
section
/-! SUPPORT. The sieve table as memory: reads after writes, and every operation keeps the canonical form. -/

namespace Sys2Proof.Machine

/-! ## Reads -/

@[simp] theorem SieveTable.get_nil (i : Nat) : SieveTable.get [] i = sentinel := rfl

theorem SieveTable.get_insert (t : SieveTable) (i j : Nat) (v : Word) :
    (t.insert i v).get j = if j = i then v else t.get j := by
  induction t with
  | nil => simp [SieveTable.insert, SieveTable.get]
  | cons c t ih =>
    obtain ⟨k, x⟩ := c
    simp only [SieveTable.insert]
    split_ifs with h1 h2 <;> simp only [SieveTable.get, ih] <;> split_ifs <;> simp_all

/-- An index below every listed one reads as the sentinel. -/
theorem SieveTable.get_below (t : SieveTable) (low j : Nat) (h : t.wfFrom low = true) (hj : j < low) :
    t.get j = sentinel := by
  induction t generalizing low with
  | nil => rfl
  | cons c t ih =>
    obtain ⟨k, x⟩ := c
    simp only [SieveTable.wfFrom, Bool.and_eq_true, decide_eq_true_eq] at h
    obtain ⟨⟨hlow, _⟩, ht⟩ := h
    have hk : j ≠ k := by omega
    simp only [SieveTable.get, hk, if_false]
    exact ih (k + 1) ht (by omega)

theorem SieveTable.get_erase (t : SieveTable) (low i j : Nat) (h : t.wfFrom low = true) :
    (t.erase i).get j = if j = i then sentinel else t.get j := by
  induction t generalizing low with
  | nil => simp [SieveTable.erase]
  | cons c t ih =>
    obtain ⟨k, x⟩ := c
    simp only [SieveTable.wfFrom, Bool.and_eq_true, decide_eq_true_eq] at h
    obtain ⟨⟨_, _⟩, ht⟩ := h
    by_cases hik : i = k
    · subst hik
      by_cases hj : j = i
      · subst hj
        simpa [SieveTable.erase] using SieveTable.get_below t (j + 1) j ht (by omega)
      · simp [SieveTable.erase, SieveTable.get, hj]
    · simp only [SieveTable.erase, hik, if_false, SieveTable.get, ih (k + 1) ht]
      split_ifs <;> simp_all

/-- A read after a write: the value at the written index, every other index as before. -/
theorem SieveTable.get_set (t : SieveTable) (i j : Nat) (v : Word) (h : t.wf = true) :
    (t.set i v).get j = if j = i then v else t.get j := by
  unfold SieveTable.set
  split_ifs with hv hj hj
  · subst hj; subst hv; simpa using t.get_erase 0 j j h
  · simpa [hj] using t.get_erase 0 i j h
  · simp [SieveTable.get_insert, hj]
  · simp [SieveTable.get_insert, hj]

/-! ## The canonical form is kept -/

theorem SieveTable.wfFrom_mono (t : SieveTable) (low low' : Nat) (h : t.wfFrom low' = true) (hl : low ≤ low') :
    t.wfFrom low = true := by
  cases t with
  | nil => rfl
  | cons c t =>
    simp only [SieveTable.wfFrom, Bool.and_eq_true, decide_eq_true_eq] at h ⊢
    exact ⟨⟨by omega, h.1.2⟩, h.2⟩

theorem SieveTable.wfFrom_insert (t : SieveTable) (low i : Nat) (v : Word) (h : t.wfFrom low = true) (hl : low ≤ i)
    (hv : v ≠ sentinel) : (t.insert i v).wfFrom low = true := by
  induction t generalizing low with
  | nil => simp [SieveTable.insert, SieveTable.wfFrom, hl, hv]
  | cons c t ih =>
    obtain ⟨k, x⟩ := c
    simp only [SieveTable.wfFrom, Bool.and_eq_true, decide_eq_true_eq] at h
    obtain ⟨⟨hk, hx⟩, ht⟩ := h
    simp only [SieveTable.insert]
    split_ifs with h1 h2
    · simp [SieveTable.wfFrom, hl, hv, hx, ht]; omega
    · subst h2; simp [SieveTable.wfFrom, hl, hv, ht]
    · simp [SieveTable.wfFrom, hk, hx, ih (k + 1) ht (by omega)]

theorem SieveTable.wfFrom_erase (t : SieveTable) (low i : Nat) (h : t.wfFrom low = true) :
    (t.erase i).wfFrom low = true := by
  induction t generalizing low with
  | nil => rfl
  | cons c t ih =>
    obtain ⟨k, x⟩ := c
    simp only [SieveTable.wfFrom, Bool.and_eq_true, decide_eq_true_eq] at h
    obtain ⟨⟨hk, hx⟩, ht⟩ := h
    simp only [SieveTable.erase]
    split_ifs
    · exact SieveTable.wfFrom_mono t low (k + 1) ht (by omega)
    · simp [SieveTable.wfFrom, hk, hx, ih (k + 1) ht]

/-- A write keeps the canonical form. -/
theorem SieveTable.wf_set (t : SieveTable) (i : Nat) (v : Word) (h : t.wf = true) : (t.set i v).wf = true := by
  unfold SieveTable.set
  split_ifs with hv
  · exact t.wfFrom_erase 0 i h
  · exact t.wfFrom_insert 0 i v h (Nat.zero_le _) hv

theorem wf_markMultiples (len i : Nat) (ps : List Nat) (a : SieveTable) (h : a.wf = true) :
    (markMultiples len i ps a).wf = true := by
  induction ps generalizing a with
  | nil => exact h
  | cons p ps ih =>
    simp only [markMultiples]
    split_ifs
    · exact h
    · exact ih _ (a.wf_set _ _ h)

theorem wf_buildLoop (len n i : Nat) (ps : List Nat) (a : SieveTable) (h : a.wf = true) :
    (buildLoop len n i ps a).wf = true := by
  induction n generalizing i ps a with
  | zero => exact h
  | succ n ih =>
    simp only [buildLoop]
    split_ifs
    · exact ih _ _ _ (wf_markMultiples _ _ _ _ (a.wf_set _ _ h))
    · exact ih _ _ _ (wf_markMultiples _ _ _ _ h)

/-- `build()` gives a canonical table. -/
theorem wf_buildTable (len : Nat) : (buildTable len).wf = true := wf_buildLoop _ _ _ _ _ rfl

theorem lpfFrom_le (fuel d n : Nat) (h : d + fuel ≤ n) : lpfFrom fuel d n ≤ n := by
  induction fuel generalizing d with
  | zero => simp [lpfFrom]
  | succ f ih =>
    simp only [lpfFrom]
    split_ifs
    · omega
    · exact ih (d + 1) (by omega)

theorem lpf_le (n : Nat) (h : 2 ≤ n) : lpf n ≤ n := lpfFrom_le _ _ _ (by omega)

theorem zext64_ne_sentinel (v : Nat) (h : v < 2 ^ 64 - 1) : zext64 v ≠ sentinel := by
  intro hv
  have := congrArg BitVec.toNat hv
  simp [zext64, sentinel] at this
  omega

theorem wfFrom_romCells (n i : Nat) (hi : 2 ≤ i) (h : i + n < 2 ^ 64) :
    SieveTable.wfFrom i ((List.range' i n).map fun j => (j, zext64 (lpf j))) = true := by
  induction n generalizing i with
  | zero => rfl
  | succ n ih =>
    have hle := lpf_le i hi
    have hne := zext64_ne_sentinel (lpf i) (by omega)
    simp [List.range'_succ, SieveTable.wfFrom, hne, ih (i + 1) (by omega) (by omega)]

/-- The manufactured table is canonical, for every legal LEN. -/
theorem wf_romTable (len : Nat) (h : len < 2 ^ 64) : (romTable len).wf = true := by
  by_cases hl : len ≤ 2
  · have : len - 2 = 0 := by omega
    simp [romTable, this, SieveTable.wf, SieveTable.wfFrom]
  · exact SieveTable.wfFrom_mono _ 0 2 (wfFrom_romCells (len - 2) 2 (le_refl 2) (by omega)) (by omega)

theorem wfFrom_freeCells (f : Nat → Word) (n i : Nat) :
    SieveTable.wfFrom i (((List.range' i n).map fun j => (j, f j)).filter fun c => c.2 != sentinel) = true := by
  induction n generalizing i with
  | zero => rfl
  | succ n ih =>
    simp only [List.range'_succ, List.map_cons, List.filter_cons]
    split_ifs with h
    · simp only [SieveTable.wfFrom, h, ih (i + 1)]; simp
    · exact SieveTable.wfFrom_mono _ i (i + 1) (ih (i + 1)) (by omega)

/-- The unspecified table of INIT storage is canonical, whatever its entries are. -/
theorem wf_unbuiltTable (n len : Nat) : (unbuiltTable n len).wf = true := by
  simpa [unbuiltTable, List.range_eq_range', SieveTable.wf] using wfFrom_freeCells (Config.unbuiltEntry n) len 0

/-- The table after any reset is canonical. -/
theorem wf_resetTable (cfg : Config) (n : Nat) : (resetTable cfg n).wf = true := by
  unfold resetTable
  split
  · exact wf_romTable _ cfg.sieveLen.isLt
  · exact wf_unbuiltTable _ _

/-- The memory of the state after reset is canonical. -/
theorem State.reset_sieve_wf : State.reset.sieve.wf = true := by
  have h := wf_resetTable Config.default 0
  unfold State.reset State.afterReset
  exact h

end Sys2Proof.Machine
end

