-- ==== Sys2Proof/Tests/Slice0.lean ====
section
/-! SUPPORT. The model's own tests: ill-formed terms, words of every row of the opcode table, one step of every command
on the vectors of 95_test_vectors.md, the command cycle, and a witness for the hypotheses of every statement of
Certificates/Slice0/Obligations.lean. Expected values are the spec's, never the model's own answers. -/

namespace Sys2Proof.Tests

open Sys2Proof.Machine

/-! ## WellFormed: an ill-formed term for each check -/

theorem test_wf_size_refused : Txn.admitted (.read 4 0x18) = false := by decide
theorem test_wf_alignment_refused : Txn.admitted (.read 8 0x1C) = false := by decide
theorem test_wf_window_refused : Txn.admitted (.write 8 0x80 0#64) = false := by decide
theorem test_wf_event_refused : Event.admitted (.host (.write 2 0x20 1#64)) = false := by decide
theorem test_wf_len_zero_refused : Config.wellFormed ⟨0#64, .rom⟩ = false := by decide
theorem test_wf_admitted : Txn.admitted (.write 8 0x78 0#64) = true := by decide
theorem test_wf_every_width : ∀ w : Width, (Instr.factorNext w).wellFormed = true := by intro w; rfl

/-! ## Decoding: words written out from 30_encoding.md R91 (RSV, WID, OP) and R100 -/

theorem test_decode_montSetup : decode 0b00_00000001#64 = .ok (.montSetup .w8) := by decide
theorem test_decode_montConvert : decode 0b01_00000010#64 = .ok (.montConvert .w16) := by decide
theorem test_decode_montMul : decode 0b10_00000011#64 = .ok (.montMul .w32) := by decide
theorem test_decode_montPow : decode 0b11_00000100#64 = .ok (.montPow .w64) := by decide
theorem test_decode_sieveIsPrime : decode 0b11_00010000#64 = .ok (.sieveIsPrime .w64) := by decide
theorem test_decode_sieveLpf : decode 0b00_00010001#64 = .ok (.sieveLpf .w8) := by decide
theorem test_decode_factorStart : decode 0b01_00010010#64 = .ok (.factorStart .w16) := by decide
theorem test_decode_factorNext : decode 0b11_00010011#64 = .ok (.factorNext .w64) := by decide
theorem test_decode_primeNext : decode 0b00_00010100#64 = .ok (.primeNext .w8) := by decide
theorem test_decode_mrRound : decode 0b01_00100000#64 = .ok (.mrRound .w16) := by decide
theorem test_decode_mrTest : decode 0b11_00100001#64 = .ok (.mrTest .w64) := by decide
theorem test_decode_tableWord : decodeTableWord 64 0x203 = some (.montMul .w32) := by decide
theorem test_encode_canonical : encode (.factorNext .w64) = 0x313#64 := by decide
/- vectors E1, E2, E3, E4 of 95_test_vectors.md 2.4, and the edges of the unassigned ranges of R94 -/
theorem test_decode_zero : decode 0x0#64 = .error .unassignedOpcode := by decide
theorem test_decode_rsv_bit10 : decode 0x410#64 = .error .reservedBits := by decide
theorem test_decode_rsv_bit63 : decode 0x8000_0000_0000_0021#64 = .error .reservedBits := by decide
theorem test_decode_unassigned : decode 0x05#64 = .error .unassignedOpcode ∧ decode 0x0F#64 = .error .unassignedOpcode ∧
    decode 0x15#64 = .error .unassignedOpcode ∧ decode 0x1F#64 = .error .unassignedOpcode ∧
    decode 0x22#64 = .error .unassignedOpcode ∧ decode 0xFF#64 = .error .unassignedOpcode := by decide

/-! ## States for the tests -/

/-- A core past INIT with LEN = `len` in ROM. -/
def idle (len : Nat) : State := (State.afterReset ⟨BitVec.ofNat 64 len, .rom⟩ 0 []).initDone

/-- The state after an outcome, or the state before it where there is none. -/
def after (s : State) : Host.Outcome State Fault Refusal → State
  | .next t => t
  | .fault _ | .refused _ => s

/-- One step of the core on `i` with the given operands latched. -/
def run (s : State) (i : Instr) (a b : Nat) : State :=
  after s (step { s with phase := .exec, latCmd := encode i, latA := BitVec.ofNat 64 a, latB := BitVec.ofNat 64 b })

/-- The context N = 97, W = 8 (95_test_vectors.md 2.1.1). -/
def with97 (s : State) : State :=
  { s with ctxN := 97#64, ctxNinv := 0xA1#64, ctxR := 62#64, ctxR2 := 61#64, ctxW := 8#7, ctxValid := true }

/-! ## Commands (95_test_vectors.md part 2) -/

/- 2.1.1 -/
theorem test_montSetup : (let t := run (idle 1) (.montSetup .w8) 97 0
    (t.ctxN, t.ctxNinv, t.ctxR, t.ctxR2, t.ctxW, t.statusWord)) =
    (97#64, 0xA1#64, 62#64, 61#64, 8#7, 0xA#64) := by decide +kernel
theorem test_montSetup_even : (run (idle 1) (.montSetup .w8) 96 0).err = 5#4 := by decide +kernel
/- 2.1.2 -/
theorem test_montConvert : (run (with97 (idle 1)) (.montConvert .w8) 255 0).res = 96#64 := by decide +kernel
/- 2.1.3 -/
theorem test_montMul : (run (with97 (idle 1)) (.montMul .w8) 19 46).res = 36#64 := by decide +kernel
theorem test_montMul_unreduced : (run (with97 (idle 1)) (.montMul .w8) 112 224).res = 98#64 := by decide +kernel
/- 2.1.4 -/
theorem test_montPow : (run (with97 (idle 1)) (.montPow .w8) 19 3).res = 87#64 := by decide +kernel
theorem test_montPow_zero : (run (with97 (idle 1)) (.montPow .w8) 0 0).res = 62#64 := by decide +kernel
/- 2.1.5 -/
theorem test_no_context_first : (run (idle 1) (.montMul .w16) (2 ^ 20) 0).err = 2#4 := by decide +kernel
theorem test_width_mismatch : (run (with97 (idle 1)) (.montMul .w16) 19 46).err = 3#4 := by decide +kernel
theorem test_operand_range_b : (run (with97 (idle 1)) (.montPow .w8) 19 256).err = 4#4 := by decide +kernel
/- 2.2.1 -/
theorem test_sieveIsPrime : (run (idle 255) (.sieveIsPrime .w8) 251 0).res = 1#64 := by decide +kernel
theorem test_sieveIsPrime_range : (run (idle 255) (.sieveIsPrime .w8) 255 0).err = 6#4 := by decide +kernel
theorem test_sieveLpf : (run (idle 255) (.sieveLpf .w16) 221 0).res = 13#64 := by decide +kernel
theorem test_sieveLpf_sentinel : (run (idle 255) (.sieveLpf .w8) 1 0).res = 0xFFFF_FFFF_FFFF_FFFF#64 := by
  decide +kernel
/- 2.2.2 -/
theorem test_buildTable : buildTable 10 =
    [(2, 2#64), (3, 3#64), (4, 2#64), (5, 5#64), (6, 2#64), (7, 7#64), (8, 2#64), (9, 3#64)] := by decide +kernel
theorem test_buildTable_small : buildTable 1 = [] ∧ buildTable 2 = [] ∧ buildTable 3 = [(2, 2#64)] := by decide +kernel
/- 2.2.3 -/
theorem test_factorStart : (let t := run (idle 255) (.factorStart .w8) 84 0; (t.fit, t.res, t.aux)) =
    (84#64, 0#64, 0#64) := by decide +kernel
theorem test_factorStart_empty : (run (idle 255) (.factorStart .w8) 1 0).aux = 1#64 := by decide +kernel
theorem test_factorNext : (let t := run { idle 255 with fit := 21#64 } (.factorNext .w8) (2 ^ 40) 0; (t.res, t.fit)) =
    (3#64, 7#64) := by decide +kernel
theorem test_factorNext_end : (run { idle 255 with fit := 1#64 } (.factorNext .w64) 0 0).aux = 1#64 := by decide +kernel
/- 2.2.4 -/
theorem test_primeNext : (run (idle 255) (.primeNext .w8) 200 0).res = 211#64 := by decide +kernel
theorem test_primeNext_end : (run (idle 255) (.primeNext .w16) 1000 0).aux = 1#64 := by decide +kernel
/- 2.3.1 -/
theorem test_mrRound : (let t := run (with97 (idle 1)) (.mrRound .w8) 5 0; (t.res, t.aux)) = (1#64, 0x405#64) := by
  decide +kernel
theorem test_mrRound_skipped : (let t := run (with97 (idle 1)) (.mrRound .w8) 97 0; (t.res, t.aux)) =
    (2#64, 0xFF00#64) := by decide +kernel
/- 2.3.2 -/
theorem test_mrTest_skip : (let t := run (idle 1) (.mrTest .w8) 61 0; (t.res, t.aux)) = (1#64, 0x201F2#64) := by
  decide +kernel
theorem test_mrTest_cascade : (let t := run (idle 255) (.mrTest .w64) 1795265021 0; (t.res, t.aux)) =
    (0#64, 0x20006#64) := by decide +kernel

/-! ## The command cycle (95_test_vectors.md 2.4, P6) -/

theorem test_illegal_word : (let t := after (idle 1) (step { idle 1 with phase := .exec, latCmd := 0x421#64, res := 7#64 })
    (t.err, t.done, t.res)) = (1#4, true, 7#64) := by decide +kernel
theorem test_reset_status : State.reset.statusWord = 1#64 ∧ State.reset.readReg .id = 0x0000_0007_4D52_5054#64 ∧
    State.reset.readReg .sieveLen = 255#64 := by decide
theorem test_initDone : (after State.reset (step State.reset)).statusWord = 0#64 := by decide
theorem test_status_w1c : (let t := State.writeReg .status 0x2#64 { idle 1 with done := true, overrun := true }
    (t.done, t.overrun)) = (false, true) := by decide
theorem test_bus_error : State.hostStep (.read 8 0x1C) (idle 1) = .refused (.busError (.read 8 0x1C)) := by rfl
theorem test_p6_after_initDone : (let t := after State.reset (State.play State.reset
      [.core, .host (.write 8 0x20 0x21#64), .core]); (t.statusWord, t.aux, t.cmd)) = (0x2#64, 0xF0#64, 0x21#64) := by
  decide +kernel
theorem test_p6_before_initDone : (let t := after State.reset (State.play State.reset
      [.host (.write 8 0x20 0x21#64), .core]); (t.statusWord, t.aux, t.cmd)) = (0x4#64, 0#64, 0#64) := by
  decide +kernel
theorem test_withFetchWord : (after State.reset (step (State.reset.withFetchWord 64 0x301))).err = 5#4 := by
  decide +kernel

/-! ## Witnesses for the statements' hypotheses -/

/-- A state with LEN = 10 and the context N = 97, W = 8, in the given phase, with the given latches, FIT and inbox. -/
def sample (phase : Phase) (a b fit : Word) (inbox : List Event) : State :=
  with97 { State.afterReset ⟨10#64, .rom⟩ 0 inbox with phase := phase, latA := a, latB := b, fit := fit }

theorem sample_table_correct : SieveTable.Correct (romTable 10) 10 := by
  intro i hi
  have h : ∀ n : Nat, n < 10 → (romTable 10).get n =
      if n < 2 then 0xFFFF_FFFF_FFFF_FFFF#64 else BitVec.ofNat 64 (lpf n) := by decide +kernel
  rw [h i hi]
  have hl : 2 ≤ i → lpf i = i.minFac := by
    intro h2
    interval_cases i <;> norm_num [lpf, lpfFrom]
  split_ifs with h2
  · rfl
  · rw [hl (by omega)]

theorem sample_table_ok : (romTable 10).wf = true ∧ ∀ c ∈ romTable 10, c.1 < 10 := by decide +kernel

theorem sample_context (p : Phase) (a b fit : Word) (inbox : List Event) :
    (sample p a b fit inbox).ContextOk ∧ (sample p a b fit inbox).HasContext .w8 :=
  ⟨⟨fun _ => ⟨.w8, by simp [sample, with97, Width.bits]⟩, fun h => by simp [sample, with97] at h⟩, rfl, rfl⟩

theorem sample_inv (p : Phase) (a b fit : Word) (inbox : List Event) (hf : fit.toNat < 10) :
    (sample p a b fit inbox).Inv where
  config := rfl
  context := (sample_context p a b fit inbox).1
  fit := .inr hf
  sieve := fun _ => sample_table_correct
  table := sample_table_ok
  err := by simp [State.ErrOk, sample, with97, State.afterReset]
  cycle := ⟨rfl, fun h => by simp [sample, with97, State.afterReset] at h⟩

/-- The state of a core with INIT storage right after reset. -/
def freshInit : State := State.afterReset ⟨10#64, .init⟩ 0 []

theorem freshInit_inv : freshInit.Inv where
  config := rfl
  context := ⟨fun h => by simp [freshInit, State.afterReset] at h, fun _ => ⟨rfl, rfl, rfl, rfl, rfl⟩⟩
  fit := .inl (by simp [freshInit, State.afterReset])
  sieve := fun h => by simp [freshInit, State.afterReset] at h
  table := by
    refine ⟨wf_resetTable ⟨10#64, .init⟩ 0, fun c hc => ?_⟩
    simp [freshInit, State.afterReset, resetTable, unbuiltTable] at hc
    obtain ⟨⟨i, hi, rfl⟩, _⟩ := hc
    exact hi
  err := by simp [State.ErrOk, freshInit, State.afterReset]
  cycle := ⟨rfl, fun _ => by simp_all [freshInit, State.afterReset]⟩

/-! Bus transactions and steps. -/

theorem test_hyp_illegal_reservedBits : let s := { sample .exec 0 0 0 [.core, .reset] with latCmd := 0x401#64 }
    s.phase = .exec ∧ s.inbox = .core :: [.reset] ∧ s.latCmd.toNat / 2 ^ 10 ≠ 0 := by decide
theorem test_hyp_illegal_opcode : let s := { sample .exec 0 0 0 [] with latCmd := 0x22#64 }
    s.phase = .exec ∧ s.inbox = [] ∧
    s.latCmd.toNat % 256 ∉ [0x01, 0x02, 0x03, 0x04, 0x10, 0x11, 0x12, 0x13, 0x14, 0x20, 0x21] := by
  decide
theorem test_hyp_step_core_event : let s := { sample .exec 0 0 0 [.core, .reset] with latCmd := 0x321#64 }
    (Instr.mrTest .w64).wellFormed = true ∧ s.phase = .exec ∧ decode s.latCmd = .ok (.mrTest .w64) ∧
    s.inbox = .core :: [.reset] := by decide
theorem test_hyp_step_empty_inbox : let s := { sample .exec 0 0 0 [] with latCmd := 0x003#64 }
    (Instr.montMul .w8).wellFormed = true ∧ s.phase = .exec ∧ decode s.latCmd = .ok (.montMul .w8) ∧
    s.inbox = [] := by decide
theorem test_hyp_read : ∀ off ∈ [0x00, 0x08, 0x10, 0x18, 0x20, 0x28, 0x30, 0x38, 0x40, 0x48, 0x50, 0x58, 0x60, 0x68, 0x70, 0x78],
    (sample .exec 0 0 0 [.host (.read 8 off), .core]).inbox = .host (.read 8 off) :: [.core] ∧
    off % 8 = 0 ∧ off < 0x80 := by decide
theorem test_hyp_write : ∀ off ∈ [0x00, 0x08, 0x10, 0x18, 0x28, 0x30, 0x38, 0x40, 0x48, 0x50, 0x58, 0x60, 0x68, 0x70],
    (sample .exec 0 0 0 [.host (.write 8 off 6#64)]).inbox = .host (.write 8 off 6#64) :: [] := by decide
theorem test_hyp_cmd_idle : let s := sample .idle 0 0 0 [.host (.write 8 0x20 0#64)]
    s.inbox = .host (.write 8 0x20 0#64) :: [] ∧ s.phase = .idle := by decide
theorem test_hyp_cmd_busy_exec : let s := sample .exec 0 0 0 [.host (.write 8 0x20 0x321#64)]
    s.inbox = .host (.write 8 0x20 0x321#64) :: [] ∧ s.phase ≠ .idle := by decide
theorem test_hyp_cmd_busy_init : let s := sample .init 0 0 0 [.host (.write 8 0x20 0x321#64)]
    s.inbox = .host (.write 8 0x20 0x321#64) :: [] ∧ s.phase ≠ .idle := by decide
theorem test_hyp_reserved_bits_ctrl_status : (0x1#64).getLsbD 0 = (0xFFFF#64).getLsbD 0 ∧
    (0x6#64).getLsbD 1 = (0xFFFF#64).getLsbD 1 ∧ (0x6#64).getLsbD 2 = (0xFFFF#64).getLsbD 2 := by decide
theorem test_hyp_unadmitted : ∀ t ∈ [Txn.read 4 0x18, .read 8 0x1C, .read 8 0x80, .read 8 0x78, .write 8 0x00 0],
    (sample .idle 0 0 0 [.host t]).inbox = .host t :: [] := by decide
theorem test_hyp_idle_turn : (sample .idle 0 0 0 []).phase = .idle ∧ (sample .idle 0 0 0 []).inbox = [] ∧
    (sample .idle 0 0 0 [.core, .reset]).phase = .idle ∧ (sample .idle 0 0 0 [.core, .reset]).inbox = .core :: [.reset] := by
  decide
theorem test_hyp_initDone_rom : let s := sample .init 0 0 0 [.core, .reset]
    s.Inv ∧ s.phase = .init ∧ s.inbox = .core :: [.reset] ∧ s.cfg.storage = .rom :=
  ⟨sample_inv _ _ _ _ _ (by decide), rfl, rfl, rfl⟩
theorem test_hyp_initDone_init : freshInit.Inv ∧ freshInit.phase = .init ∧ freshInit.inbox = [] :=
  ⟨freshInit_inv, rfl, rfl⟩
theorem test_hyp_reset : (sample .exec 5 6 7 [.reset, .core]).inbox = .reset :: [.core] ∧
    (sample .exec 5 6 7 [.reset, .core]).cfg.storage = .rom := by decide
theorem test_hyp_exec_inv : (sample .exec 0 0 9 []).Inv ∧ (sample .exec 0 0 9 []).phase = .exec :=
  ⟨sample_inv _ _ _ _ _ (by decide), rfl⟩

/-! Montgomery commands. -/

theorem test_hyp_montSetup : (sample .exec 1 0 0 []).latA.toNat % 2 = 1 ∧ (sample .exec 255 0 0 []).latA.toNat % 2 = 1 ∧
    (sample .exec 255 0 0 []).latA.toNat < 2 ^ Width.w8.bits := by decide
theorem test_hyp_montSetup_even : (sample .exec 0 0 0 []).latA.toNat % 2 = 0 ∧ (sample .exec 254 0 0 []).latA.toNat % 2 = 0 ∧
    (sample .exec 254 0 0 []).latA.toNat < 2 ^ Width.w8.bits := by decide
theorem test_hyp_montConvert : let s := sample .exec 255 0 0 []
    s.ContextOk ∧ s.HasContext .w8 ∧ s.latA.toNat < 2 ^ Width.w8.bits :=
  ⟨(sample_context _ _ _ _ _).1, (sample_context _ _ _ _ _).2, by decide⟩
theorem test_hyp_montMul_reduced : let s := sample .exec 97 255 0 []
    s.ContextOk ∧ s.HasContext .w8 ∧ s.latA.toNat < 2 ^ Width.w8.bits ∧ s.latB.toNat < 2 ^ Width.w8.bits ∧
    s.latA.toNat * s.latB.toNat < s.ctxN.toNat * 2 ^ Width.w8.bits :=
  ⟨(sample_context _ _ _ _ _).1, (sample_context _ _ _ _ _).2, by decide⟩
theorem test_hyp_montMul_unreduced : let s := sample .exec 194 128 0 []
    s.ContextOk ∧ s.HasContext .w8 ∧ s.latA.toNat < 2 ^ Width.w8.bits ∧ s.latB.toNat < 2 ^ Width.w8.bits ∧
    s.ctxN.toNat * 2 ^ Width.w8.bits ≤ s.latA.toNat * s.latB.toNat :=
  ⟨(sample_context _ _ _ _ _).1, (sample_context _ _ _ _ _).2, by decide⟩
theorem test_hyp_montPow_zero : let s := sample .exec 255 0 0 []
    s.ContextOk ∧ s.HasContext .w8 ∧ s.latA.toNat < 2 ^ Width.w8.bits ∧ s.latB.toNat < 2 ^ Width.w8.bits ∧
    s.latB.toNat = 0 :=
  ⟨(sample_context _ _ _ _ _).1, (sample_context _ _ _ _ _).2, by decide⟩
theorem test_hyp_montPow_one : let s := sample .exec 255 1 0 []
    s.ContextOk ∧ s.HasContext .w8 ∧ s.latA.toNat < 2 ^ Width.w8.bits ∧ s.latB.toNat < 2 ^ Width.w8.bits ∧
    1 ≤ s.latB.toNat :=
  ⟨(sample_context _ _ _ _ _).1, (sample_context _ _ _ _ _).2, by decide⟩

/-! Sieve commands: v at both ends of the table, FIT at the clauses' boundary, PRIME_NEXT with and without a prime. -/

theorem test_hyp_sieve_lookup : ∀ v ∈ [0#64, 1#64, 2#64, 9#64], let s := sample .exec v 0 0 []
    s.Inv ∧ s.phase = .exec ∧ s.latA.toNat < 2 ^ Width.w8.bits ∧ s.latA.toNat < s.len := by
  intro v hv
  have h : v.toNat < 10 := by
    simp only [List.mem_cons, List.not_mem_nil, or_false] at hv
    rcases hv with rfl | rfl | rfl | rfl <;> decide
  exact ⟨sample_inv _ _ _ _ _ (by decide), rfl, Nat.lt_trans h (by decide), h⟩
theorem test_hyp_sieve_range : let s := sample .exec 10 0 0 []
    s.latA.toNat < 2 ^ Width.w8.bits ∧ s.len ≤ s.latA.toNat := by decide
theorem test_hyp_factorNext_end : (sample .exec 0 0 1 []).Inv ∧ (sample .exec 0 0 1 []).phase = .exec ∧
    (sample .exec 0 0 1 []).fit.toNat ≤ 1 := ⟨sample_inv _ _ _ _ _ (by decide), rfl, by decide⟩
theorem test_hyp_factorNext_more : (sample .exec 0 0 2 []).Inv ∧ (sample .exec 0 0 2 []).phase = .exec ∧
    2 ≤ (sample .exec 0 0 2 []).fit.toNat := ⟨sample_inv _ _ _ _ _ (by decide), rfl, by decide⟩
theorem test_hyp_primeNext_found : let s := sample .exec 7 0 0 []
    s.Inv ∧ s.phase = .exec ∧ s.latA.toNat < 2 ^ Width.w8.bits ∧ Nat.Prime 7 ∧ s.latA.toNat ≤ 7 ∧ 7 < s.len ∧
    ∀ r : Nat, r.Prime → s.latA.toNat ≤ r → 7 ≤ r :=
  ⟨sample_inv _ _ _ _ _ (by decide), rfl, by decide, by norm_num, by decide, by decide, fun _ _ h => h⟩
theorem test_hyp_primeNext_end : let s := sample .exec 8 0 0 []
    s.Inv ∧ s.phase = .exec ∧ s.latA.toNat < 2 ^ Width.w8.bits ∧
    ∀ q : Nat, q.Prime → s.latA.toNat ≤ q → s.len ≤ q := by
  refine ⟨sample_inv _ _ _ _ _ (by decide), rfl, by decide, fun q hq hl => ?_⟩
  by_contra hlt
  have h8 : 8 ≤ q := hl
  have h10 : q < 10 := by have : (sample .exec 8 0 0 []).len = 10 := by decide
                          omega
  interval_cases q <;> revert hq <;> norm_num
theorem test_hyp_sieve_build : 1 ≤ 1 ∧ 1 < 2 ^ 64 ∧ 1 ≤ 2 ^ 64 - 1 ∧ 2 ^ 64 - 1 < 2 ^ 64 := by norm_num
theorem test_hyp_factorSequence : let s := sample .exec 9 0 0 []
    s.Inv ∧ s.phase = .exec ∧ s.latA.toNat < 2 ^ Width.w8.bits ∧ s.latA.toNat < s.len ∧ 64 ≤ 64 ∧ 2 ≤ s.latA.toNat :=
  ⟨sample_inv _ _ _ _ _ (by decide), rfl, by decide⟩
theorem test_hyp_factorSequence_empty : let s := sample .exec 1 0 0 []
    s.Inv ∧ s.phase = .exec ∧ s.latA.toNat < 2 ^ Width.w8.bits ∧ s.latA.toNat < s.len ∧ 64 ≤ 64 ∧ s.latA.toNat < 2 :=
  ⟨sample_inv _ _ _ _ _ (by decide), rfl, by decide⟩
theorem test_hyp_enumeration : (sample .exec 0 0 0 []).Inv ∧ (sample .exec 0 0 0 []).phase = .exec ∧
    (sample .exec 0 0 0 []).len ≤ 2 ^ Width.w8.bits ∧ (sample .exec 0 0 0 []).len ≤ 10 :=
  ⟨sample_inv _ _ _ _ _ (by decide), rfl, by decide, by decide⟩

/-! Miller-Rabin: N = 97 with 96 = 2^5·3, and for MR_TEST the candidates 97 (a prime) and 15. -/

theorem test_hyp_mrRound : let s := sample .exec 0 0 0 []
    s.ContextOk ∧ s.HasContext .w8 ∧ s.latA.toNat < 2 ^ Width.w8.bits ∧
    (s.ctxN.toNat - 1 = 2 ^ 5 * 3 ∧ 3 % 2 = 1) ∧ s.latA.toNat % s.ctxN.toNat = 0 :=
  ⟨(sample_context _ _ _ _ _).1, (sample_context _ _ _ _ _).2, by decide⟩
theorem test_hyp_mrRound_at_once : let s := sample .exec 1 0 0 []
    s.ContextOk ∧ s.HasContext .w8 ∧ s.latA.toNat < 2 ^ Width.w8.bits ∧
    (s.ctxN.toNat - 1 = 2 ^ 5 * 3 ∧ 3 % 2 = 1) ∧ s.latA.toNat % s.ctxN.toNat ≠ 0 ∧
    s.latA.toNat ^ 3 % s.ctxN.toNat = 1 :=
  ⟨(sample_context _ _ _ _ _).1, (sample_context _ _ _ _ _).2, by decide⟩
/- 95_test_vectors.md 2.3.1: a = 5 is accepted with k = 4 -/
theorem test_hyp_mrRound_squared : let s := sample .exec 5 0 0 []
    s.ContextOk ∧ s.HasContext .w8 ∧ s.latA.toNat < 2 ^ Width.w8.bits ∧
    (s.ctxN.toNat - 1 = 2 ^ 5 * 3 ∧ 3 % 2 = 1) ∧ s.latA.toNat % s.ctxN.toNat ≠ 0 ∧
    ¬ (s.latA.toNat ^ 3 % s.ctxN.toNat = 1 ∨ s.latA.toNat ^ 3 % s.ctxN.toNat = s.ctxN.toNat - 1) ∧
    s.latA.toNat ^ (3 * 2 ^ 4) % s.ctxN.toNat = s.ctxN.toNat - 1 ∧
    ∀ k, k < 4 → 1 ≤ k → s.latA.toNat ^ (3 * 2 ^ k) % s.ctxN.toNat ≠ s.ctxN.toNat - 1 :=
  ⟨(sample_context _ _ _ _ _).1, (sample_context _ _ _ _ _).2, by decide⟩

/-- The context N = 15, W = 8, a composite modulus with 14 = 2·7. -/
def composite15 : State :=
  { sample .exec 2 0 0 [] with ctxN := 15#64, ctxNinv := 0xEF#64, ctxR := 1#64, ctxR2 := 1#64 }
theorem test_hyp_mrRound_composite : composite15.ContextOk ∧ composite15.HasContext .w8 ∧
    composite15.latA.toNat < 2 ^ Width.w8.bits ∧ (composite15.ctxN.toNat - 1 = 2 ^ 1 * 7 ∧ 7 % 2 = 1) ∧
    composite15.latA.toNat % composite15.ctxN.toNat ≠ 0 ∧
    ¬ (composite15.latA.toNat ^ 7 % composite15.ctxN.toNat = 1 ∨
      composite15.latA.toNat ^ 7 % composite15.ctxN.toNat = composite15.ctxN.toNat - 1) ∧
    ∀ j, 1 ≤ j → j < 1 → composite15.latA.toNat ^ (7 * 2 ^ j) % composite15.ctxN.toNat ≠ composite15.ctxN.toNat - 1 :=
  ⟨⟨fun _ => ⟨.w8, by decide⟩, fun h => by simp [composite15, sample, with97] at h⟩, ⟨rfl, rfl⟩, by decide, by decide,
    by decide, by decide, fun j h1 h2 => by omega⟩

theorem strong_97 : ∀ a ∈ [2, 7, 61], StrongProbablePrime 97 a := by
  intro a ha
  refine ⟨5, 3, by decide, by decide, ?_⟩
  fin_cases ha
  · exact .inr ⟨3, by decide, by decide⟩
  · exact .inr ⟨4, by decide, by decide⟩
  · exact .inl (by decide)

/-- A decomposition 2^m·t with t odd is the only one. -/
theorem decomposition_unique {m m' t t' : Nat} (h : 2 ^ m * t = 2 ^ m' * t') (ht : t % 2 = 1) (ht' : t' % 2 = 1) :
    m = m' ∧ t = t' := by
  induction m generalizing m' with
  | zero =>
    cases m' with
    | zero => simpa using h
    | succ m' => rw [pow_succ, pow_zero, one_mul, mul_right_comm] at h; omega
  | succ m ih =>
    cases m' with
    | zero => rw [pow_succ, pow_zero, one_mul, mul_right_comm] at h; omega
    | succ m' =>
      rw [pow_succ, pow_succ, mul_right_comm, mul_right_comm (2 ^ m')] at h
      obtain ⟨rfl, rfl⟩ := ih (m' := m') (Nat.eq_of_mul_eq_mul_right (by norm_num) h)
      exact ⟨rfl, rfl⟩

/-- The strong test on a given decomposition. -/
theorem strong_iff (p a m t : Nat) (h : p - 1 = 2 ^ m * t) (ht : t % 2 = 1) :
    StrongProbablePrime p a ↔ (a ^ t % p = 1 ∨ ∃ j, j < m ∧ a ^ (t * 2 ^ j) % p = p - 1) := by
  refine ⟨?_, fun hp => ⟨m, t, h, ht, hp⟩⟩
  rintro ⟨m', t', h', ht', hp⟩
  obtain ⟨rfl, rfl⟩ := decomposition_unique (h.symm.trans h') ht ht'
  exact hp

theorem not_strong_15 : ¬ StrongProbablePrime 15 2 := by
  rw [strong_iff 15 2 1 7 (by decide) (by decide)]
  decide

/-- a^e mod m by repeated squaring, for exponents too large to expand. -/
def powMod (m : Nat) : (fuel a e : Nat) → Nat
  | 0, _, _ => 1 % m
  | fuel + 1, a, e =>
    if e = 0 then 1 % m
    else if e % 2 = 1 then powMod m fuel (a * a % m) (e / 2) * a % m else powMod m fuel (a * a % m) (e / 2)

theorem powMod_eq (m fuel a e : Nat) (h : e < 2 ^ fuel) : a ^ e % m = powMod m fuel a e := by
  induction fuel generalizing a e with
  | zero => obtain rfl : e = 0 := by omega
            rfl
  | succ fuel ih =>
    have hsq : (a * a % m) ^ (e / 2) % m = (a * a) ^ (e / 2) % m := (Nat.pow_mod ..).symm
    have hhalf : a ^ e = (a * a) ^ (e / 2) * a ^ (e % 2) := by
      rw [← pow_two, ← pow_mul, ← pow_add, Nat.div_add_mod]
    unfold powMod
    rw [← ih (a * a % m) (e / 2) (by omega), hsq]
    split_ifs with h0 h1
    · subst h0; rfl
    · rw [hhalf, h1, pow_one, Nat.mod_mul_mod]
    · rw [hhalf, show e % 2 = 0 by omega, pow_zero, mul_one]

/- 1795265023, the least candidate of the 64-bit witness loop (43_miller_rabin.md R196: RES = 0, WIDX = 0, S = 1) -/
theorem not_strong_1795265023 : ¬ StrongProbablePrime 1795265023 2 := by
  rw [strong_iff 1795265023 2 1 897632511 (by norm_num) (by norm_num)]
  rintro (h | ⟨j, hj, h⟩)
  · rw [powMod_eq _ 30 _ _ (by norm_num)] at h
    exact absurd h (by decide +kernel)
  · rw [powMod_eq _ 30 _ _ (by interval_cases j; norm_num)] at h
    interval_cases j
    exact absurd h (by decide +kernel)

/- 999999999999999989 is prime (43_miller_rabin.md R196: AUX = 0x200F2, so S = 2) -/
theorem strong_999999999999999989 : ∀ a ∈ [2, 325, 9375, 28178, 450775, 9780504, 1795265022],
    StrongProbablePrime 999999999999999989 a := by
  intro a ha
  rw [strong_iff _ a 2 249999999999999997 (by norm_num) (by norm_num), powMod_eq _ 58 _ _ (by norm_num)]
  have hj : ∀ j, j < 2 → powMod 999999999999999989 60 a (249999999999999997 * 2 ^ j) = 999999999999999988 →
      ∃ j, j < 2 ∧ a ^ (249999999999999997 * 2 ^ j) % 999999999999999989 = 999999999999999989 - 1 :=
    fun j hlt h => ⟨j, hlt, by rw [powMod_eq _ 60 _ _ (by interval_cases j <;> norm_num)]; exact h⟩
  fin_cases ha
  · exact .inr (hj 1 (by decide) (by decide +kernel))
  · exact .inl (by decide +kernel)
  · exact .inr (hj 1 (by decide) (by decide +kernel))
  · exact .inr (hj 0 (by decide) (by decide +kernel))
  · exact .inl (by decide +kernel)
  · exact .inl (by decide +kernel)
  · exact .inr (hj 1 (by decide) (by decide +kernel))

theorem decomposition_below_256 : ∀ p, p < 256 → 3 ≤ p → p % 2 = 1 →
    p - 1 = 2 ^ ctz (p - 1) * ((p - 1) >>> ctz (p - 1)) ∧ (p - 1) >>> ctz (p - 1) % 2 = 1 := by decide +kernel

/-- The strong test on the decomposition of 43_miller_rabin.md R191. -/
def strongBool (p a : Nat) : Bool :=
  a ^ ((p - 1) >>> ctz (p - 1)) % p == 1 ||
    (List.range (ctz (p - 1))).any fun j => a ^ ((p - 1) >>> ctz (p - 1) * 2 ^ j) % p == p - 1

/-- Every odd p < 256 with a divisor from 2 to 15 fails the strong test to base 2. -/
theorem strong_two_below_256 : ∀ p, p < 256 → p % 2 = 1 →
    ((List.range 16).all fun d => !(decide (2 ≤ d) && decide (d < p) && p % d == 0 && strongBool p 2)) = true := by
  decide +kernel

/-- The named assumption of 43_miller_rabin.md R197 holds at W = 8. -/
theorem test_hyp_witnessSet_w8 : WitnessSetSuffices .w8 ∧ (Width.w8 = .w64 → WitnessSetSuffices .w32) := by
  refine ⟨fun p h3 hodd hlt hp => ⟨2, by simp [witnesses], by rw [Nat.mod_eq_of_lt (by omega)]; decide, fun hs => hp ?_⟩,
    fun h => absurd h (by decide)⟩
  obtain ⟨hd, ht⟩ := decomposition_below_256 p hlt h3 hodd
  refine Nat.prime_def_le_sqrt.2 ⟨by omega, fun d h2 hdp hdvd => ?_⟩
  have hsq : d * d ≤ p := Nat.le_sqrt.1 hdp
  have h16 : d < 16 := by
    by_contra h
    have : 16 * 16 ≤ d * d := Nat.mul_le_mul (by omega) (by omega)
    have : p < 256 := hlt
    omega
  have hfail := List.all_eq_true.1 (strong_two_below_256 p hlt hodd) d (List.mem_range.2 h16)
  have hpass : strongBool p 2 = true := by
    simpa [strongBool] using (strong_iff p 2 _ _ hd ht).1 hs
  have hdp : d < p := by nlinarith
  simp [h2, hdp, Nat.mod_eq_zero_of_dvd hdvd, hpass] at hfail

theorem test_hyp_mrTest_trivial : let s := sample .exec 2 0 0 []
    s.Inv ∧ s.phase = .exec ∧ s.latA.toNat < 2 ^ Width.w8.bits ∧ (s.latA.toNat = 1 ∨ s.latA.toNat % 2 = 0) :=
  ⟨sample_inv _ _ _ _ _ (by decide), rfl, by decide, .inr (by decide)⟩
theorem test_hyp_mrTest_one : let s := sample .exec 1 0 0 []
    s.Inv ∧ s.phase = .exec ∧ s.latA.toNat < 2 ^ Width.w8.bits ∧ (s.latA.toNat = 1 ∨ s.latA.toNat % 2 = 0) :=
  ⟨sample_inv _ _ _ _ _ (by decide), rfl, by decide, .inl rfl⟩
theorem test_hyp_mrTest_sieve : let s := sample .exec 9 0 0 []
    s.Inv ∧ s.phase = .exec ∧ s.latA.toNat < 2 ^ Width.w64.bits ∧ s.latA.toNat ≠ 1 ∧ s.latA.toNat % 2 = 1 ∧
    s.latA.toNat < s.len := ⟨sample_inv _ _ _ _ _ (by decide), rfl, by decide⟩
theorem test_hyp_mrTest_witness_accept : let s := sample .exec 97 0 0 []
    s.latA.toNat < 2 ^ Width.w8.bits ∧ 3 ≤ s.latA.toNat ∧ s.latA.toNat % 2 = 1 ∧ s.len ≤ s.latA.toNat ∧
    (Width.w8 = .w64 → 1795265022 ≤ s.latA.toNat) ∧ s.latA.toNat - 1 = 2 ^ 5 * 3 ∧ 3 % 2 = 1 ∧
    [2, 7, 61] = (if Width.w8 = .w64 then [2, 325, 9375, 28178, 450775, 9780504, 1795265022] else [2, 7, 61]) ∧
    ∀ a ∈ [2, 7, 61], a % s.latA.toNat = 0 ∨ StrongProbablePrime s.latA.toNat a :=
  ⟨by decide, by decide, by decide, by decide, by decide, by decide, by decide, by decide,
    fun a ha => .inr (strong_97 a ha)⟩
theorem test_hyp_mrTest_witness_reject : let s := sample .exec 15 0 0 []
    s.latA.toNat < 2 ^ Width.w8.bits ∧ 3 ≤ s.latA.toNat ∧ s.latA.toNat % 2 = 1 ∧ s.len ≤ s.latA.toNat ∧
    (Width.w8 = .w64 → 1795265022 ≤ s.latA.toNat) ∧ s.latA.toNat - 1 = 2 ^ 1 * 7 ∧ 7 % 2 = 1 ∧
    [2, 7, 61] = (if Width.w8 = .w64 then [2, 325, 9375, 28178, 450775, 9780504, 1795265022] else [2, 7, 61]) ∧
    [2, 7, 61][0]? = some 2 ∧ 2 % s.latA.toNat ≠ 0 ∧ ¬ StrongProbablePrime s.latA.toNat 2 ∧
    ∀ b ∈ [2, 7, 61].take 0, b % s.latA.toNat = 0 ∨ StrongProbablePrime s.latA.toNat b :=
  ⟨by decide, by decide, by decide, by decide, by decide, by decide, by decide, by decide, rfl, by decide,
    not_strong_15, fun b hb => by simp at hb⟩
theorem test_hyp_mrTest_witness_accept_w64 : let s := sample .exec 999999999999999989 0 0 []
    s.latA.toNat < 2 ^ Width.w64.bits ∧ 3 ≤ s.latA.toNat ∧ s.latA.toNat % 2 = 1 ∧ s.len ≤ s.latA.toNat ∧
    (Width.w64 = .w64 → 1795265022 ≤ s.latA.toNat) ∧ s.latA.toNat - 1 = 2 ^ 2 * 249999999999999997 ∧
    249999999999999997 % 2 = 1 ∧
    ∀ a ∈ [2, 325, 9375, 28178, 450775, 9780504, 1795265022], a % s.latA.toNat = 0 ∨ StrongProbablePrime s.latA.toNat a :=
  ⟨by decide, by decide, by decide, by decide, by decide, by decide, by decide,
    fun a ha => .inr (strong_999999999999999989 a ha)⟩
theorem test_hyp_mrTest_witness_reject_w64 : let s := sample .exec 1795265023 0 0 []
    s.latA.toNat < 2 ^ Width.w64.bits ∧ 3 ≤ s.latA.toNat ∧ s.latA.toNat % 2 = 1 ∧ s.len ≤ s.latA.toNat ∧
    (Width.w64 = .w64 → 1795265022 ≤ s.latA.toNat) ∧ s.latA.toNat - 1 = 2 ^ 1 * 897632511 ∧ 897632511 % 2 = 1 ∧
    [2, 325, 9375, 28178, 450775, 9780504, 1795265022][0]? = some 2 ∧ 2 % s.latA.toNat ≠ 0 ∧
    ¬ StrongProbablePrime s.latA.toNat 2 :=
  ⟨by decide, by decide, by decide, by decide, by decide, by decide, by decide, rfl, by decide, not_strong_1795265023⟩
theorem test_hyp_mrTest_cascade : let s := sample .exec 1795265021 0 0 []
    s.latA.toNat % 2 = 1 ∧ s.latA.toNat ≠ 1 ∧ s.latA.toNat < 1795265022 := by decide
theorem test_hyp_mrTest_prime : let s := sample .exec 97 0 0 []
    s.Inv ∧ s.phase = .exec ∧ s.latA.toNat < 2 ^ Width.w8.bits ∧ s.latA.toNat.Prime :=
  ⟨sample_inv _ _ _ _ _ (by decide), rfl, by decide, show Nat.Prime 97 by norm_num⟩
theorem test_hyp_mrTest_composite : let s := sample .exec 15 0 0 []
    s.Inv ∧ s.phase = .exec ∧ s.latA.toNat < 2 ^ Width.w8.bits ∧ ¬ s.latA.toNat.Prime ∧
    [2, 7, 61] = (if Width.w8 = .w64 ∧ 1795265022 ≤ s.latA.toNat
      then [2, 325, 9375, 28178, 450775, 9780504, 1795265022] else [2, 7, 61]) ∧
    (s.latA.toNat % 2 = 1 → s.len ≤ s.latA.toNat → s.latA.toNat ≠ 1 →
      ∃ a ∈ [2, 7, 61], a % s.latA.toNat ≠ 0 ∧ ¬ StrongProbablePrime s.latA.toNat a) :=
  ⟨sample_inv _ _ _ _ _ (by decide), rfl, by decide, show ¬ Nat.Prime 15 by norm_num, by decide,
    fun _ _ _ => ⟨2, by decide, by decide, not_strong_15⟩⟩
theorem test_hyp_decomposition : 3 % 2 = 1 ∧ 3 ≤ 3 ∧ 3 < 2 ^ Width.w8.bits ∧ 255 % 2 = 1 ∧ 255 < 2 ^ Width.w8.bits := by
  decide

/-! Errors, frames and whole-machine rules. -/

theorem test_hyp_noContext : (idle 10).ctxValid = false ∧
    Instr.mrRound .w8 ∈ [Instr.montConvert .w8, .montMul .w8, .montPow .w8, .mrRound .w8] := by decide
theorem test_hyp_widthMismatch : (sample .exec 0 0 0 []).ctxValid = true ∧
    (sample .exec 0 0 0 []).ctxW.toNat ≠ Width.w16.bits := by decide
theorem test_hyp_range_a : 2 ^ Width.w8.bits ≤ (sample .exec 256 0 0 []).latA.toNat ∧
    (sample .exec 256 0 0 []).HasContext .w8 := ⟨by decide, rfl, rfl⟩
theorem test_hyp_range_b : 2 ^ Width.w8.bits ≤ (sample .exec 0 256 0 []).latB.toNat ∧
    (sample .exec 0 256 0 []).HasContext .w8 := ⟨by decide, rfl, rfl⟩
theorem test_hyp_failed : ∃ t, exec (.montMul .w8) (idle 10) = .next t ∧ t.err ≠ 0#4 :=
  ⟨_, rfl, by decide⟩
theorem test_hyp_succeeded : ∃ t, exec (.factorNext .w8) (sample .exec 0 0 0 []) = .next t :=
  ⟨_, rfl⟩
theorem test_hyp_legal_config : Config.wellFormed ⟨1#64, .init⟩ = true ∧
    Config.wellFormed ⟨0xFFFF_FFFF_FFFF_FFFF#64, .rom⟩ = true := by decide
theorem test_hyp_step_keeps : let s := sample .idle 0 0 9 []
    s.Inv ∧ s.ContextOk ∧ s.FitOk ∧ s.TableOk ∧ ∃ t, step s = .next t :=
  ⟨sample_inv _ _ _ _ _ (by decide), (sample_context _ _ _ _ _).1, .inr (by decide), sample_table_ok, _, rfl⟩
theorem test_hyp_not_stuck : let s := sample .exec 0 0 9 [.host (.read 8 0x18), .core, .reset]
    s.Inv ∧ s.InboxAdmitted := by
  refine ⟨sample_inv _ _ _ _ _ (by decide), ?_⟩
  show ∀ e ∈ [Event.host (.read 8 0x18), .core, .reset], e.admitted = true
  decide
theorem test_hyp_context_written : ∃ t, step { sample .exec 99 0 0 [] with latCmd := 0x001#64 } = .next t ∧
    t.ctxN ≠ (sample .exec 99 0 0 []).ctxN := ⟨_, rfl, by decide⟩
theorem test_hyp_fit_written : ∃ t, step { sample .exec 4 0 0 [] with latCmd := 0x012#64 } = .next t ∧
    t.fit ≠ (sample .exec 4 0 0 []).fit := ⟨_, rfl, by decide +kernel⟩
theorem test_hyp_ctxValid_cleared : ∃ t, step (sample .exec 4 0 0 [.reset]) = .next t ∧
    (sample .exec 4 0 0 [.reset]).ctxValid = true ∧ t.ctxValid = false := ⟨_, rfl, rfl, rfl⟩
theorem test_hyp_overrun_cleared : let s := { sample .exec 4 0 0 [.host (.write 8 0x18 4#64)] with overrun := true }
    ∃ t, step s = .next t ∧ s.overrun = true ∧ t.overrun = false := ⟨_, rfl, rfl, by decide⟩
theorem test_hyp_result_written : ∃ t, step { sample .exec 1 0 0 [] with latCmd := 0x002#64 } = .next t ∧
    t.res ≠ (sample .exec 1 0 0 []).res := ⟨_, rfl, by decide +kernel⟩
theorem test_hyp_outcome_same_inputs : let s := sample .exec 19 46 0 []
    let s' := { s with opa := 9#64, ie := true, overrun := true, inbox := [.reset] }
    s'.cfg = s.cfg ∧ s'.latA = s.latA ∧ s'.latB = s.latB ∧ s'.ctxValid = s.ctxValid ∧ s'.ctxN = s.ctxN ∧
    s'.ctxNinv = s.ctxNinv ∧ s'.ctxR = s.ctxR ∧ s'.ctxR2 = s.ctxR2 ∧ s'.ctxW = s.ctxW ∧ s'.fit = s.fit ∧
    s'.sieve = s.sieve ∧ ∃ t, exec (.montMul .w8) s = .next t :=
  ⟨rfl, rfl, rfl, rfl, rfl, rfl, rfl, rfl, rfl, rfl, rfl, _, rfl⟩
theorem test_hyp_latency : let s := { sample .exec 19 46 0 [] with latCmd := 0x003#64 }
    s.phase = .exec ∧ decode s.latCmd = .ok (.montMul .w8) ∧
    (∀ h ∈ [Txn.write 8 0x28 9#64, .write 8 0x20 0x321#64, .write 8 0x18 6#64], h.admitted = true) ∧
    ∃ t, s.runLatched = .next t := ⟨rfl, by decide, by decide, _, rfl⟩
theorem test_hyp_latency_illegal : let s := { sample .exec 19 46 0 [] with latCmd := 0x421#64 }
    s.phase = .exec ∧ decode s.latCmd = .error .reservedBits ∧
    (∀ h ∈ [Txn.write 8 0x28 9#64], h.admitted = true) ∧ ∃ t, s.runLatched = .next t :=
  ⟨rfl, by decide, by decide, _, rfl⟩
theorem test_hyp_completes : let s := sample .exec 0 0 0 [.host (.read 8 0x18)]
    s.Inv ∧ s.phase = .exec ∧ s.InboxAdmitted ∧ .reset ∉ s.inbox := by
  refine ⟨sample_inv _ _ _ _ _ (by decide), rfl, ?_, by decide⟩
  show ∀ e ∈ [Event.host (.read 8 0x18)], e.admitted = true
  decide
theorem test_hyp_pseudo : let s := sample .idle 0 0 0 []
    s.ContextOk ∧ s.HasContext .w8 ∧ s.phase = .idle ∧ (255#64).toNat < 2 ^ Width.w8.bits :=
  ⟨(sample_context _ _ _ _ _).1, (sample_context _ _ _ _ _).2, rfl, by decide⟩
theorem test_hyp_work_context : (sample .exec 255 255 0 []).ContextOk := (sample_context _ _ _ _ _).1
theorem test_hyp_work_succeeds : ∀ i ∈ [Instr.montConvert .w8, .montMul .w8, .sieveIsPrime .w8, .sieveLpf .w8],
    ∃ t, exec i (sample .exec 9 255 0 []) = .next t ∧ t.err = 0#4 := by
  intro i hi
  fin_cases hi <;> exact ⟨_, rfl, by decide +kernel⟩
theorem test_hyp_work_fails : ∃ t, exec (.sieveLpf .w8) (sample .exec 10 0 0 []) = .next t ∧ t.err ≠ 0#4 :=
  ⟨_, rfl, by decide +kernel⟩
/- 70_reset_and_hazards.md R261 reached: e = 255 takes 2·bitlen(e) = 16 evaluations -/
theorem test_work_montPow : (execCounted (.montPow .w8) (sample .exec 19 255 0 [])).work = ⟨16, 0⟩ := by decide +kernel
theorem test_work_primeNext : (execCounted (.primeNext .w8) (sample .exec 8 0 0 [])).work = ⟨0, 2⟩ := by decide +kernel

end Sys2Proof.Tests
end

section
/-! The rules about steps: what a bus write can do, and one elimination rule for `step` (Laws/Ops.lean's `exec_cases` and
`hostStep_cases` put together), by which a property of the next state follows from its cases. The statements about
10_state.md are read off it. -/

namespace Sys2Proof.Machine

/-! ## Bus writes (20_memory.md R71, R73, R76, R77) -/

/-- What holds after each of the things a bus write can do holds after a bus write. -/
theorem State.writeReg_elim {P : State → Prop} {r : Reg} {v : Word} {s u : State} (hu : s.writeReg r v = u)
    (ctrl : P (s.writeCtrl v)) (status : r = .status → P (s.writeStatus v))
    (accept : s.phase = .idle → P (s.accept v)) (reject : P s.reject)
    (operands : ∀ a b, P { s with opa := a, opb := b }) : P u := by
  subst hu
  cases r with
  | ctrl => exact ctrl
  | status => exact status rfl
  | opa => exact operands v s.opb
  | opb => exact operands s.opa v
  | cmd =>
    show P (s.writeCmd v)
    unfold State.writeCmd
    cases hp : s.phase with
    | idle => exact accept hp
    | init | exec => exact reject
  | _ => exact operands s.opa s.opb

/-- The offset map has a left inverse on the window: the sixteen slots of R73. -/
theorem offset_ofOffset : ∀ k < 16, (Reg.ofOffset (8 * k)).map Reg.offset = some (8 * k) := by decide

/-- A transaction that selects a register has eight bytes at that register's offset. -/
theorem size_off_of_selectedReg {t : Txn} {r : Reg} (h : selectedReg t = some r) : t.size = 8 ∧ t.off = r.offset := by
  unfold selectedReg Txn.admitted at h
  split at h
  case isFalse => cases h
  next hadm =>
    simp only [Bool.and_eq_true, beq_iff_eq, decide_eq_true_eq] at hadm
    obtain ⟨⟨hsize, halign⟩, hwindow⟩ := hadm
    obtain ⟨k, hk⟩ := Nat.dvd_of_mod_eq_zero halign
    have hinv := offset_ofOffset k (Nat.lt_of_mul_lt_mul_left (a := 8) (hk ▸ hwindow))
    rw [← hk, h] at hinv
    exact ⟨hsize, (Option.some.inj hinv).symm⟩

/-! ## One step -/

/-- `s` with the events `rest` still to come. -/
def State.withInbox (rest : List Event) (s : State) : State := { s with inbox := rest }

/-- `s` with the bus's last answer `reply`. -/
def State.withReply (reply : BusReply) (s : State) : State := { s with reply := reply }

/-- `s` after INIT, with the given table (70_reset_and_hazards.md R251). -/
def State.withTable (table : SieveTable) (s : State) : State := { s with sieve := table, phase := .idle }

theorem State.initDone_of_rom {s : State} (h : s.cfg.storage = .rom) : s.initDone = s.withTable s.sieve := by
  unfold State.initDone
  rw [h]
  rfl

theorem State.initDone_of_init {s : State} (h : s.cfg.storage = .init) :
    s.initDone = s.withTable (buildTable s.len) := by
  unfold State.initDone
  rw [h]
  rfl

/-- What holds after each of the things a turn of the core can do holds after its turn: INIT ends, nothing happens, or
the latched command completes with an error, with a result alone, with a new context (MONT_SETUP) or with a new FIT below
LEN (FACTOR_START, FACTOR_NEXT). -/
theorem State.coreStep_elim {P : State → Prop} {s t : State} (h : s.coreStep = .next t)
    (rom : s.cfg.storage = .rom → P (s.withTable s.sieve)) (init : P (s.withTable (buildTable s.len)))
    (idle : P s) (error : s.phase = .exec → ∀ e : ErrCode, P (s.withError e.code))
    (result : s.phase = .exec → ∀ res aux, P (s.withResult res aux))
    (setup : s.phase = .exec → ∀ w, decode s.latCmd = .ok (.montSetup w) → s.latA.toNat % 2 = 1 →
      s.latA.toNat < 2 ^ w.bits → P (s.completeOk 0#64 0#64 (.context (mkCtx s.latA.toNat w.bits))))
    (factor : s.phase = .exec → ∀ w, decode s.latCmd = .ok (.factorStart w) ∨ decode s.latCmd = .ok (.factorNext w) →
      ∀ res aux fit, fit.toNat < s.len → P (s.completeOk res aux (.fit fit))) : P t := by
  obtain ⟨-, ht⟩ | ⟨-, ht⟩ | ⟨hp, i, hd, he⟩ | ⟨hp, -, ht⟩ := s.coreStep_cases t h
  · rw [ht]
    cases hst : s.cfg.storage with
    | rom => exact State.initDone_of_rom hst ▸ rom hst
    | init => exact State.initDone_of_init hst ▸ init
  · exact ht ▸ idle
  · obtain ⟨e, ht⟩ | ⟨res, aux, ht⟩ | ⟨w, hi, hn, hodd, ht⟩ | ⟨w, hi, -, hlt, ht⟩ | ⟨w, hi, -, hlt, ht⟩ :=
      exec_cases i s t he
    · exact ht ▸ error hp e
    · exact ht ▸ result hp res aux
    · have hA := ((s.failedCheck_eq_none i).mp hn).2.1
      subst hi
      exact ht ▸ setup hp w hd hodd (hA rfl)
    · exact ht ▸ factor hp w (.inl (hi ▸ hd)) _ _ _ hlt
    · exact ht ▸ factor hp w (.inr (hi ▸ hd)) _ _ _ ((Nat.div_le_self _ _).trans_lt hlt)
  · exact ht ▸ error hp .illegalCmd

theorem step_of_empty {s : State} (h : s.inbox = []) : step s = s.coreStep := by
  unfold step
  rw [h]

theorem step_of_event {s : State} {e : Event} {rest : List Event} (h : s.inbox = e :: rest) :
    step s = (s.withInbox rest).onEvent e := by
  unfold step
  rw [h]
  rfl

/-- What holds after a reset, a bus read, a bus write and a turn of the core holds after a step. -/
theorem step_elim {P : State → Prop} {s t : State} (h : step s = .next t)
    (reset : ∀ rest, s.inbox = .reset :: rest → P (State.afterReset s.cfg (s.resets + 1) rest))
    (read : ∀ rest reply, P ((s.withInbox rest).withReply reply))
    (write : ∀ rest n o v r, s.inbox = .host (.write n o v) :: rest → selectedReg (.write n o v) = some r →
      P (((s.withInbox rest).writeReg r v).withReply .ack))
    (core : ∀ rest, (s.withInbox rest).coreStep = .next t → P t) : P t := by
  cases hi : s.inbox with
  | nil => exact core s.inbox ((step_of_empty hi).symm.trans h)
  | cons e rest =>
    have hev := (step_of_event hi).symm.trans h
    cases e with
    | core => exact core rest hev
    | reset => exact Host.Outcome.next.inj hev ▸ reset rest hi
    | host txn =>
      obtain ⟨r, hr, ⟨_, _, -, ht⟩ | ⟨n, o, v, htxn, ht⟩⟩ := State.hostStep_cases txn _ t hev
      · exact ht ▸ read rest _
      · exact ht ▸ write rest n o v r (htxn ▸ hi) (htxn ▸ hr)

/-! ## Who writes the context, FIT, RES and AUX -/

/-- What a completion writes besides STATUS is in `u` as in `s`: the context with CTX_VALID, FIT, RES and AUX. -/
def SameOutputs (s u : State) : Prop :=
  (u.ctxN = s.ctxN ∧ u.ctxNinv = s.ctxNinv ∧ u.ctxR = s.ctxR ∧ u.ctxR2 = s.ctxR2 ∧ u.ctxW = s.ctxW ∧
    u.ctxValid = s.ctxValid) ∧ u.fit = s.fit ∧ u.res = s.res ∧ u.aux = s.aux

theorem SameOutputs.refl (s : State) : SameOutputs s s := ⟨⟨rfl, rfl, rfl, rfl, rfl, rfl⟩, rfl, rfl, rfl⟩

/-- A step resets the core, leaves all outputs, or is the completion of a successful command (10_state.md R44 to R46,
R49). -/
theorem step_outputs_elim {P : State → Prop} {s t : State} (h : step s = .next t)
    (reset : ∀ rest, s.inbox = .reset :: rest → P (State.afterReset s.cfg (s.resets + 1) rest))
    (same : ∀ u : State, SameOutputs s u → P u)
    (result : s.phase = .exec → ∀ rest res aux, P ((s.withInbox rest).withResult res aux))
    (setup : s.phase = .exec → ∀ w rest c, decode s.latCmd = .ok (.montSetup w) →
      P ((s.withInbox rest).completeOk 0#64 0#64 (.context c)))
    (factor : s.phase = .exec → ∀ w, decode s.latCmd = .ok (.factorStart w) ∨ decode s.latCmd = .ok (.factorNext w) →
      ∀ rest res aux fit, P ((s.withInbox rest).completeOk res aux (.fit fit))) : P t := by
  apply step_elim h reset
  case read => exact fun _ _ => same _ (.refl s)
  case write =>
    intro rest n o v r _ _
    generalize hu : (s.withInbox rest).writeReg r v = u
    apply State.writeReg_elim hu
    all_goals intros; exact same _ (.refl s)
  case core =>
    intro rest hc
    apply State.coreStep_elim hc
    case rom => exact fun _ => same _ (.refl s)
    case init => exact same _ (.refl s)
    case idle => exact same _ (.refl s)
    case error => exact fun _ _ => same _ (.refl s)
    case result => exact fun hp => result hp rest
    case setup => exact fun hp w hd _ _ => setup hp w rest _ hd
    case factor => exact fun hp w hd res aux fit _ => factor hp w hd rest res aux fit

/-- Settles O51: of the things a step can do, only a reset and the success of MONT_SETUP touch the context. -/
theorem onlyMontSetupAndResetWriteTheContext : Obligations.OnlyMontSetupAndResetWriteTheContext := by
  intro s t h
  apply step_outputs_elim h
  case reset => exact fun rest hi _ => .inl ⟨rest, hi⟩
  case same => exact fun u hu hchanged => absurd hu.1 hchanged
  case setup => exact fun hp w _ _ hd _ => .inr ⟨hp, rfl, rfl, w, hd⟩
  case result => exact fun _ _ _ _ hchanged => absurd (SameOutputs.refl s).1 hchanged
  case factor => exact fun _ _ _ _ _ _ _ hchanged => absurd (SameOutputs.refl s).1 hchanged

/-- Settles O52: of the things a step can do, only a reset and the success of FACTOR_START and FACTOR_NEXT touch FIT. -/
theorem onlyFactorCommandsAndResetWriteFit : Obligations.OnlyFactorCommandsAndResetWriteFit := by
  intro s t h
  apply step_outputs_elim h
  case reset => exact fun rest hi _ => .inl ⟨rest, hi⟩
  case same => exact fun u hu hchanged => absurd hu.2.1 hchanged
  case factor => exact fun hp w hd _ _ _ _ _ => .inr ⟨hp, rfl, rfl, w, hd⟩
  case result | setup => intros; exact absurd rfl ‹_ ≠ _›

/-- Settles O54: of the things a step can do, only a reset and the successful completions touch RES or AUX. -/
theorem resultsChangeOnlyAtSuccessfulCompletion : Obligations.ResultsChangeOnlyAtSuccessfulCompletion := by
  intro s t h
  apply step_outputs_elim h
  case reset => exact fun rest hi _ => .inl ⟨rest, hi⟩
  case same =>
    exact fun u hu hchanged => hchanged.elim (absurd hu.2.2.1) (absurd hu.2.2.2)
  case result => exact fun hp _ _ _ _ => .inr ⟨hp, rfl, rfl, rfl⟩
  case setup => exact fun hp _ _ _ _ _ => .inr ⟨hp, rfl, rfl, rfl⟩
  case factor => exact fun hp _ _ _ _ _ _ _ => .inr ⟨hp, rfl, rfl, rfl⟩

/-! ## Who clears the sticky flags (10_state.md R37, R38) -/

/-- OVERRUN is cleared by reset and by its write-one-to-clear only: of the bus writes STATUS alone clears it, and no turn
of the core touches it. -/
theorem step_overrun {s t : State} {C : Prop} (h : step s = .next t) (hs : s.overrun = true)
    (reset : ∀ rest, s.inbox = .reset :: rest → C)
    (status : ∀ v rest, s.inbox = .host (.write 8 0x18 v) :: rest → v.getLsbD 2 = true → C) :
    t.overrun = true ∨ C := by
  apply step_elim h
  case reset => exact fun rest hi => .inr (reset rest hi)
  case read => exact fun _ _ => .inl hs
  case write =>
    intro rest n o v r hi hr
    generalize hu : (s.withInbox rest).writeReg r v = u
    apply State.writeReg_elim hu
    case status =>
      rintro rfl
      obtain ⟨rfl, rfl⟩ : n = 8 ∧ o = 0x18 := size_off_of_selectedReg hr
      cases hv : v.getLsbD 2 with
      | true => exact .inr (status v rest hi hv)
      | false => exact .inl ((congrArg₂ (fun a b => a && !b) hs hv))
    case reject => exact .inl rfl
    all_goals intros; exact .inl hs
  case core =>
    intro rest hc
    apply State.coreStep_elim hc
    all_goals intros; exact .inl hs

/-- Settles O53: CTX_VALID by `step_outputs_elim`, where MONT_SETUP only sets it, and OVERRUN by `step_overrun`. -/
theorem stickyFlagsAreClearedOnlyAsStated : Obligations.StickyFlagsAreClearedOnlyAsStated := by
  intro s t h
  refine ⟨fun hs => ?_, fun hs ht => (step_overrun h hs ?_ ?_).resolve_left (Bool.eq_false_iff.mp ht)⟩
  case refine_2 => exact fun rest hi => .inl ⟨rest, hi⟩
  case refine_3 => exact fun v rest hi hv => .inr ⟨v, rest, hi, hv⟩
  apply step_outputs_elim h
  case reset => exact fun rest hi _ => ⟨rest, hi⟩
  case same => exact fun u hu ht => absurd (hu.1.2.2.2.2.2.trans hs) (Bool.eq_false_iff.mp ht)
  case setup => exact fun _ _ _ _ _ => Bool.noConfusion
  case result | factor => intros; exact absurd hs (Bool.eq_false_iff.mp ‹_ = false›)

end Sys2Proof.Machine
end

section
/-! The Newton inverse (41_montgomery.md R130, R131) and the context invariant it gives MONT_SETUP (10_state.md R53). -/

namespace Sys2Proof.Machine

/-! ## Newton's iteration modulo 2^w squares the error 1 − n·inv -/

theorem wrap_modEq (w v : Nat) : (wrap w v : ℤ) ≡ v [ZMOD (2 ^ w : ℕ)] :=
  Int.natCast_modEq_iff.mpr (Nat.mod_modEq _ _)

theorem wrapSub_modEq (w x y : Nat) : (wrapSub w x y : ℤ) ≡ x - y [ZMOD (2 ^ w : ℕ)] := by
  have hle : y % 2 ^ w ≤ 2 ^ w := (Nat.mod_lt y (Nat.two_pow_pos w)).le
  have hsum : wrapSub w x y + y % 2 ^ w ≡ x [MOD 2 ^ w] :=
    ((Nat.mod_modEq _ _).add_right _).trans (by rw [Nat.add_assoc, Nat.sub_add_cancel hle]; exact Nat.add_modEq_right)
  exact Int.ModEq.add_right_cancel' y
    ((Int.natCast_modEq_iff.mpr (((Nat.mod_modEq y _).symm.add_left _).trans hsum)).trans (by rw [sub_add_cancel]))

theorem newtonStep_error (w n inv : Nat) :
    (1 - n * newtonStep w n inv : ℤ) ≡ (1 - n * inv) ^ 2 [ZMOD (2 ^ w : ℕ)] := by
  have hstep : (newtonStep w n inv : ℤ) ≡ inv * (2 - n * inv) [ZMOD (2 ^ w : ℕ)] :=
    (wrap_modEq w _).trans (((wrapSub_modEq w 2 _).trans ((wrap_modEq w (n * inv)).sub_left 2)).mul_left inv)
  have hring : (1 - n * inv : ℤ) ^ 2 = 1 - n * (inv * (2 - n * inv)) := by grind
  rw [hring]
  exact (hstep.mul_left n).sub_left 1

theorem newtonLoop_error (w n k inv : Nat) :
    (1 - n * newtonLoop w n k inv : ℤ) ≡ (1 - n * inv) ^ 2 ^ k [ZMOD (2 ^ w : ℕ)] := by
  induction k generalizing inv with
  | zero => rw [pow_zero, pow_one]; rfl
  | succ k ih =>
    rw [Nat.pow_succ', pow_mul]
    exact (ih _).trans ((newtonStep_error w n inv).pow _)

theorem newtonLoop_lt {w n : Nat} (k inv : Nat) (h : inv < 2 ^ w) : newtonLoop w n k inv < 2 ^ w := by
  induction k generalizing inv with
  | zero => exact h
  | succ k ih => exact ih _ (Nat.mod_lt _ (Nat.two_pow_pos w))

theorem pos_of_odd {n : Nat} (hodd : n % 2 = 1) : 0 < n := (Nat.odd_iff.mpr hodd).pos

theorem dvd_eight_pow (w : Width) : ((2 ^ w.bits : ℕ) : ℤ) ∣ 8 ^ 2 ^ w.bits.log2 := by cases w <;> decide

theorem one_mod_two_pow (w : Width) : 1 % 2 ^ w.bits = 1 := by cases w <;> rfl

/-- Of an odd number that starts as its own inverse the error is a multiple of 8, and log2(W) squarings of 8 give a
multiple of 2^W (41_montgomery.md R131). -/
theorem montInverse_spec (w : Width) {n : Nat} (hodd : n % 2 = 1) :
    n * montInverse w.bits n % 2 ^ w.bits = 1 := by
  have h8 : (8 : ℤ) ∣ 1 - n * n := by
    rw [← sq, ← Int.dvd_neg, neg_sub]
    exact Int.eight_dvd_sq_sub_one_of_odd (Nat.odd_iff.mpr hodd).natCast
  have hzero : (1 - n * n : ℤ) ^ 2 ^ w.bits.log2 ≡ 0 [ZMOD (2 ^ w.bits : ℕ)] :=
    Int.modEq_zero_iff_dvd.mpr ((dvd_eight_pow w).trans (pow_dvd_pow_of_dvd h8 _))
  have herr := Int.modEq_zero_iff_dvd.mp ((newtonLoop_error w.bits n w.bits.log2 n).trans hzero)
  have hone : n * montInverse w.bits n ≡ 1 [MOD 2 ^ w.bits] :=
    Int.natCast_modEq_iff.mp (Int.modEq_iff_dvd.mpr herr)
  exact Eq.trans hone (one_mod_two_pow w)

/-! ## The context invariant -/

theorem toNat_zext64 (w : Width) {v : Nat} (h : v < 2 ^ w.bits) : (zext64 v).toNat = v :=
  Nat.mod_eq_of_lt (h.trans_le (Nat.pow_le_pow_right two_pos (by cases w <;> decide)))

/-- MONT_SETUP of an odd modulus of its width leaves a consistent context (10_state.md R53, 41_montgomery.md R130,
R137). -/
theorem State.contextOk_setup (s : State) (w : Width) (res aux : Word) {n : Nat} (hodd : n % 2 = 1)
    (hlt : n < 2 ^ w.bits) : (s.completeOk res aux (.context (mkCtx n w.bits))).ContextOk := by
  have hmod (x : Nat) : x % n < 2 ^ w.bits := (Nat.mod_lt x (pos_of_odd hodd)).trans hlt
  have hinvlt : montInverse w.bits n < 2 ^ w.bits := newtonLoop_lt _ _ hlt
  have hn : (zext64 (mkCtx n w.bits).n).toNat = n := toNat_zext64 w hlt
  have hninv : (zext64 (mkCtx n w.bits).ninv).toNat = montInverse w.bits n := toNat_zext64 w hinvlt
  have hr : (zext64 (mkCtx n w.bits).r).toNat = 2 ^ w.bits % n := toNat_zext64 w (hmod _)
  refine ⟨fun _ => ⟨w, by cases w <;> rfl, ?_⟩, Bool.noConfusion⟩
  dsimp only [State.completeOk_context]
  rw [hn, hninv, hr]
  exact ⟨hodd, hlt, montInverse_spec w hodd, hinvlt, rfl, toNat_zext64 w (hmod _)⟩

/-- Settles O47: reset clears the context, MONT_SETUP sets up a consistent one, and nothing else touches it. -/
theorem stepKeepsTheContextConsistent : Obligations.StepKeepsTheContextConsistent := by
  intro s t hs h
  apply step_elim h
  case reset => exact fun _ _ => ⟨Bool.noConfusion, fun _ => ⟨rfl, rfl, rfl, rfl, rfl⟩⟩
  case read => exact fun _ _ => hs
  case write =>
    intro rest n o v r _ _
    generalize hu : (s.withInbox rest).writeReg r v = u
    apply State.writeReg_elim hu
    all_goals intros; exact hs
  case core =>
    intro rest hc
    apply State.coreStep_elim hc
    case setup => exact fun _ w _ hodd hlt => State.contextOk_setup _ w _ _ hodd hlt
    all_goals intros; exact hs

end Sys2Proof.Machine
end

section
/-! The command word (30_encoding.md R91 to R94): its three fields make it up, every opcode and every width stands for one
field value, and so decoding and encoding invert each other. -/

namespace Sys2Proof

/-! ## The fields of a word and of a command -/

/-- RSV, WID and OP put together again are the word (30_encoding.md R91). -/
theorem fields_append (c : Word) : rsvField c ++ widField c ++ opField c = c := by
  have htop : rsvField c ++ widField c = c.extractLsb' 8 56 :=
    BitVec.extractLsb'_append_extractLsb'_eq_extractLsb' rfl
  rw [htop]
  exact (BitVec.extractLsb'_append_extractLsb'_eq_extractLsb' rfl).trans BitVec.extractLsb'_eq_self

/-- No two values of WID name the same width (30_encoding.md R91). -/
@[simp] theorem Width.wid_ofWid (f : BitVec 2) : (Width.ofWid f).wid = f := by
  revert f
  decide

/-- An arm of the opcode map answers a command with the arm's opcode, or leaves the word to the arms below. -/
theorem fields_of_arm {op x : BitVec 8} {w : Width} {a i : Instr} {below : Option Instr} (hop : x = a.opcode)
    (hw : w = a.width) (hbelow : below = some i → op = i.opcode ∧ w = i.width)
    (h : (if op = x then some a else below) = some i) : op = i.opcode ∧ w = i.width := by
  split at h
  · next hx => exact Option.some.inj h ▸ ⟨hx.trans hop, hw⟩
  · exact hbelow h

/-- The opcode map of 30_encoding.md R92 gives each command to its own opcode alone. -/
theorem instrOfOp_eq_some_iff {op : BitVec 8} {w : Width} {i : Instr} :
    instrOfOp op w = some i ↔ op = i.opcode ∧ w = i.width := by
  constructor
  · unfold instrOfOp
    iterate 11 refine fields_of_arm rfl rfl ?_
    exact nofun
  · rintro ⟨rfl, rfl⟩
    cases i <;> rfl

theorem fields_encode (i : Instr) : Laws.EncodingFields.Statement i := by
  cases i with
  | montSetup w => exact Laws.EncodingFields.montSetup w
  | montConvert w => exact Laws.EncodingFields.montConvert w
  | montMul w => exact Laws.EncodingFields.montMul w
  | montPow w => exact Laws.EncodingFields.montPow w
  | sieveIsPrime w => exact Laws.EncodingFields.sieveIsPrime w
  | sieveLpf w => exact Laws.EncodingFields.sieveLpf w
  | factorStart w => exact Laws.EncodingFields.factorStart w
  | factorNext w => exact Laws.EncodingFields.factorNext w
  | primeNext w => exact Laws.EncodingFields.primeNext w
  | mrRound w => exact Laws.EncodingFields.mrRound w
  | mrTest w => exact Laws.EncodingFields.mrTest w

/-- A command has no field that could be ill formed (30_encoding.md R93, R96). -/
@[simp] theorem Instr.wellFormed_eq_true (i : Instr) : i.wellFormed = true := by cases i <;> rfl

/-! ## Decoding -/

/-- A word is accepted when neither condition of 30_encoding.md R94 holds, and then for the command its fields name. -/
theorem decode_eq_ok_iff {c : Word} {i : Instr} :
    decode c = .ok i ↔ rsvField c = 0#54 ∧ opField c = i.opcode ∧ Width.ofWid (widField c) = i.width := by
  rw [← instrOfOp_eq_some_iff]
  unfold decode
  generalize instrOfOp (opField c) (Width.ofWid (widField c)) = o
  by_cases hrsv : rsvField c = 0#54
  · rw [if_neg (not_not.mpr hrsv), and_iff_right hrsv]
    cases o <;> simp
  · rw [if_pos hrsv]
    exact ⟨nofun, fun h => absurd h.1 hrsv⟩

theorem decode_encode (i : Instr) : decode (encode i) = .ok i := by
  obtain ⟨hop, hwid, hrsv⟩ := fields_encode i
  exact decode_eq_ok_iff.mpr ⟨hrsv, hop, hwid⟩

theorem eq_encode_of_decode {c : Word} {i : Instr} (h : decode c = .ok i) : c = encode i := by
  obtain ⟨hrsv, hop, hwid⟩ := decode_eq_ok_iff.mp h
  rw [← fields_append c, hrsv, hop, ← Width.wid_ofWid (widField c), hwid]
  rfl

/-- Settles O1: an accepted word is its three fields put together again, and a command's word has that command's
fields. -/
theorem decodeExactlyInvertsEncode : Obligations.DecodeExactlyInvertsEncode := fun _ i =>
  ⟨fun h => eq_encode_of_decode h.2, fun h => ⟨i.wellFormed_eq_true, h ▸ decode_encode i⟩⟩

/-- Settles O2: each of the words of 30_encoding.md R100 is its command's word, so `decode_encode` decodes it. -/
theorem canonicalWordsDecode : Obligations.CanonicalWordsDecode :=
  ⟨decode_encode (.montSetup .w8), decode_encode (.montConvert .w16), decode_encode (.montMul .w32),
    decode_encode (.montPow .w64), decode_encode (.sieveIsPrime .w16), decode_encode (.sieveLpf .w32),
    decode_encode (.factorStart .w8), decode_encode (.factorNext .w64), decode_encode (.primeNext .w32),
    decode_encode (.mrRound .w16), decode_encode (.mrTest .w64)⟩

end Sys2Proof
end

section
/-! The command cycle (40_command_cycle.md): acceptance and rejection of a CMD write, the core's turn on the latched word,
and the checks that come before a command's own rule. -/

namespace Sys2Proof.Machine

/-! ## CMD writes (R110, R111) -/

theorem State.writeCmd_eq (s : State) (v : Word) :
    s.writeCmd v = if s.phase = .idle then s.accept v else s.reject := by
  unfold State.writeCmd
  cases s.phase <;> rfl

theorem State.hostStep_of_write {n o : Nat} {v : Word} {r : Reg} (h : selectedReg (.write n o v) = some r) (s : State) :
    s.hostStep (.write n o v) = .next ((s.writeReg r v).withReply .ack) := by
  unfold State.hostStep
  rw [h]
  rfl

theorem selectedReg_cmd (v : Word) : selectedReg (.write 8 0x20 v) = some .cmd :=
  (if_pos (rfl : (8 == 8 && 0x20 % 8 == 0 && decide (0x20 < 0x80)) = true)).trans (rfl : Reg.ofOffset 0x20 = some .cmd)

/-- A CMD write runs `writeCmd` and is acknowledged (20_memory.md R76). -/
theorem step_cmdWrite {s u : State} {v : Word} {rest : List Event} (h : s.inbox = .host (.write 8 0x20 v) :: rest)
    (hu : (s.withInbox rest).writeCmd v = u) : step s = .next (u.withReply .ack) :=
  (step_of_event h).trans (hu ▸ State.hostStep_of_write (selectedReg_cmd v) _)

/-- Settles O9: an idle core takes a CMD write as `accept`. -/
theorem cmdWriteWhileIdleIsAccepted : Obligations.CmdWriteWhileIdleIsAccepted :=
  fun _ v _ hi hp => step_cmdWrite hi ((State.writeCmd_eq _ v).trans (if_pos hp))

/-- Settles O10: a busy core takes a CMD write as `reject`. -/
theorem cmdWriteWhileBusySetsOverrun : Obligations.CmdWriteWhileBusySetsOverrun :=
  fun _ v _ hi hp => step_cmdWrite hi ((State.writeCmd_eq _ v).trans (if_neg hp))

/-! ## A turn of the core in EXEC (R113) -/

theorem State.coreStep_of_exec {s : State} (h : s.phase = .exec) : s.coreStep = s.runLatched := by
  unfold State.coreStep
  rw [h]

theorem step_of_exec_turn {s : State} {rest : List Event} (hp : s.phase = .exec)
    (h : s.inbox = .core :: rest ∨ s.inbox = [] ∧ rest = []) : step s = (s.withInbox rest).runLatched := by
  obtain hi | ⟨hi, rfl⟩ := h
  · exact (step_of_event hi).trans (State.coreStep_of_exec hp)
  · exact (step_of_empty hi).trans (hi ▸ State.coreStep_of_exec hp)

theorem State.runLatched_of_ok {s : State} {i : Instr} (h : decode s.latCmd = .ok i) : s.runLatched = exec i s := by
  unfold State.runLatched
  rw [h]

theorem State.runLatched_of_error {s : State} {e : IllegalWord} (h : decode s.latCmd = .error e) :
    s.runLatched = .next (s.withError 1#4) := by
  unfold State.runLatched
  rw [h]
  rfl

/-- Settles O6: the core's turn in EXEC runs the latched word. -/
theorem stepRunsTheDecodedInstruction : Obligations.StepRunsTheDecodedInstruction :=
  fun _ _ _ _ hp hd hi => (step_of_exec_turn hp hi).trans (State.runLatched_of_ok hd)

/-! ## The decode check (R114) -/

/-- The numbers of the eleven opcodes (30_encoding.md R92). -/
theorem opcode_toNat_mem (i : Instr) :
    i.opcode.toNat ∈ [0x01, 0x02, 0x03, 0x04, 0x10, 0x11, 0x12, 0x13, 0x14, 0x20, 0x21] :=
  of_decide_eq_true (by cases i <;> exact Eq.refl true)

theorem rsvField_toNat (c : Word) : (rsvField c).toNat = c.toNat / 2 ^ 10 :=
  have hlt : c.toNat / 2 ^ 10 < 2 ^ 54 := Nat.div_lt_of_lt_mul c.isLt
  (BitVec.extractLsb'_toNat 10 54 c).trans ((Nat.shiftRight_eq_div_pow _ _).symm ▸ Nat.mod_eq_of_lt hlt)

/-- Settles O4: a word that decodes has zero reserved bits and an assigned opcode (30_encoding.md R94), so an illegal one
completes with ILLEGAL_CMD. -/
theorem illegalWordsCompleteWithCodeOne : Obligations.IllegalWordsCompleteWithCodeOne := by
  intro s rest hp hi hill
  refine (step_of_exec_turn hp hi).trans ?_
  cases hd : decode s.latCmd with
  | error e => exact State.runLatched_of_error hd
  | ok i =>
    obtain ⟨hrsv, hop, -⟩ := decode_eq_ok_iff.mp hd
    exact hill.elim (absurd ((rsvField_toNat _).symm.trans (congrArg BitVec.toNat hrsv)))
      (absurd ((congrArg BitVec.toNat hop).symm.trans (BitVec.extractLsb'_toNat 0 8 _) ▸ opcode_toNat_mem i))

/-! ## The common checks (R115, R116) -/

/-- What `complete` makes of a checked answer when a check fails. -/
theorem next_checked_of_some {i : Instr} {s : State} {e : ErrCode} (rule : Result) (h : s.failedCheck i = some e) :
    (.next (s.complete (s.checked i rule)) : Host.Outcome State Fault Refusal) = .next (s.withError e.code) := by
  rw [s.checked_of_some i rule e h]
  rfl

/-- A command that fails a common check completes with that check's error. FACTOR_NEXT has none to fail. -/
theorem exec_of_failedCheck (i : Instr) {s : State} {e : ErrCode} :
    s.failedCheck i = some e → exec i s = .next (s.withError e.code) := by
  cases i with
  | factorNext w => exact fun h => absurd h (Option.some_ne_none e).symm
  | _ => exact next_checked_of_some _

/-- The context check comes first: NO_CONTEXT without a context, then WIDTH_MISMATCH at another width (R115). -/
theorem exec_contextError {i : Instr} {s : State} (hneeds : (operandRow i).needsContext = true) :
    (s.ctxValid = false → exec i s = .next (s.withError 2#4)) ∧
    (s.ctxValid = true → s.ctxW.toNat ≠ i.width.bits → exec i s = .next (s.withError 3#4)) := by
  have hfirst (b : Bool) (hv : s.ctxValid = b) := congrArg₂ (fun n v => n && !v) hneeds hv
  constructor
  · exact fun hv => exec_of_failedCheck i (e := .noContext) (if_pos (hfirst _ hv))
  · intro hv hw
    have hsecond := congrArg₂ (· && ·) hneeds (decide_eq_true hw.symm)
    exact exec_of_failedCheck i (e := .widthMismatch) ((if_neg (hfirst _ hv ▸ Bool.noConfusion)).trans (if_pos hsecond))

/-- Settles O41: without a context of its width the first or the second check fails. -/
theorem contextCommandsNeedAContextOfTheirWidth : Obligations.ContextCommandsNeedAContextOfTheirWidth :=
  fun _ _ => List.forall_iff_forall_mem.mp
    ⟨exec_contextError rfl, exec_contextError rfl, exec_contextError rfl, exec_contextError rfl⟩

/-- Past the context check only the range checks are left, LAT.A's first (R116). -/
theorem State.failedCheck_of_context {i : Instr} {s : State}
    (hctx : (operandRow i).needsContext = true → s.HasContext i.width) :
    s.failedCheck i =
      if (operandRow i).checksA && decide (2 ^ i.width.bits ≤ s.latA.toNat) then some .operandRange
      else if (operandRow i).checksB && decide (2 ^ i.width.bits ≤ s.latB.toNat) then some .operandRange
      else none := by
  refine (if_neg fun h => ?_).trans (if_neg fun h => ?_)
  · obtain ⟨hneeds, hv⟩ := Bool.and_eq_true_iff.mp h
    exact Bool.noConfusion ((congrArg not (hctx hneeds).1).symm.trans hv)
  · obtain ⟨hneeds, hw⟩ := Bool.and_eq_true_iff.mp h
    exact of_decide_eq_true hw (hctx hneeds).2.symm

/-- An operand in LAT.A that is too wide fails the range check, past the context check (R116). -/
theorem exec_operandRange_a {i : Instr} {s : State} (h : 2 ^ i.width.bits ≤ s.latA.toNat)
    (hcheck : (operandRow i).checksA = true) (hctx : (operandRow i).needsContext = true → s.HasContext i.width) :
    exec i s = .next (s.withError 4#4) :=
  exec_of_failedCheck i (e := .operandRange) <|
    (State.failedCheck_of_context hctx).trans (if_pos (congrArg₂ (· && ·) hcheck (decide_eq_true h)))

/-- An operand in LAT.B that is too wide fails the range check, whether or not LAT.A fails it too (R116). -/
theorem exec_operandRange_b {i : Instr} {s : State} (h : 2 ^ i.width.bits ≤ s.latB.toNat)
    (hcheck : (operandRow i).checksB = true) (hctx : (operandRow i).needsContext = true → s.HasContext i.width) :
    exec i s = .next (s.withError 4#4) := by
  refine exec_of_failedCheck i (e := .operandRange) ((State.failedCheck_of_context hctx).trans ?_)
  rw [hcheck, decide_eq_true h]
  exact ite_self _

/-- Settles O42: past the context check the range check of LAT.A or of LAT.B fails. -/
theorem operandsOutOfRangeAreReported : Obligations.OperandsOutOfRangeAreReported :=
  fun _ _ =>
    have hfree {p : Prop} : false = true → p := Bool.noConfusion
    ⟨fun h =>
      ⟨List.forall_iff_forall_mem.mp ⟨exec_operandRange_a h rfl hfree, exec_operandRange_a h rfl hfree,
        exec_operandRange_a h rfl hfree, exec_operandRange_a h rfl hfree, exec_operandRange_a h rfl hfree,
        exec_operandRange_a h rfl hfree⟩,
      fun hctx => List.forall_iff_forall_mem.mp ⟨exec_operandRange_a h rfl fun _ => hctx,
        exec_operandRange_a h rfl fun _ => hctx, exec_operandRange_a h rfl fun _ => hctx,
        exec_operandRange_a h rfl fun _ => hctx⟩⟩,
    fun h hctx => List.forall_iff_forall_mem.mp
      ⟨exec_operandRange_b h rfl fun _ => hctx, exec_operandRange_b h rfl fun _ => hctx⟩⟩

end Sys2Proof.Machine
end
